-- ==== Sys2Proof/Word.lean ====
section
/-! DEFINITION. The word types of the TOTP core (spec 00_scope.md R10, R14; 20_memory.md R60, R63).
Only the plain types stand here; every computation on them is in Machine/ or Decode.lean. -/

namespace Sys2Proof

/-- One character, key, message, digest or code byte (R10: "characters are 8-bit bytes"). -/
abbrev Byte := BitVec 8

/-- One word of the host bus and of `CMD` (R63, R90). -/
abbrev Word := BitVec 32

/-- A 12-bit *word* address of the host register space (R60). -/
abbrev Addr := BitVec 12

/-- The eight bytes of the counter message `MSG[0..7]` (R39). -/
abbrev Message := Vector Byte 8

/-- The twenty bytes of `DIGEST[0..19]` (R40). -/
abbrev Digest := Vector Byte 20

/-- The six ASCII digits `CODE_ASCII[0..5]` (R44). -/
abbrev Digits := Vector Byte 6

end Sys2Proof
end

