-- ==== Sys2Proof/Syntax.lean ====
section
/-! DEFINITION. The commands of the TOTP core: one constructor per row of spec/opcode_table.json
(spec 30_encoding.md R94). The core fetches no instructions (R21): an instruction is the command a
32-bit word written to `CMD` encodes (R24, R90). -/

namespace Sys2Proof

/-- A command. `c` is the operand `CHAR` of format C (R92, R93); every other input of a command is
read from registers. -/
inductive Instr where
  /-- `DEC_CLEAR` (R116) -/
  | decClear
  /-- `DEC_LOOKUP c` (R117) -/
  | decLookup (c : Byte)
  /-- `DEC_PUSH c` (R119) -/
  | decPush (c : Byte)
  /-- `DEC_STRING` (R120) -/
  | decString
  /-- `CTR_DERIVE` (R141) -/
  | ctrDerive
  /-- `CTR_ENCODE` (R145) -/
  | ctrEncode
  /-- `HMAC_START` (R161) -/
  | hmacStart
  /-- `TRUNCATE` (R169) -/
  | truncate
  /-- `MOD1M` (R171) -/
  | mod1m
  /-- `FORMAT` (R172) -/
  | format
  /-- `GENERATE` (R190) -/
  | generate
  deriving DecidableEq, Repr

end Sys2Proof
end

