-- ==== Sys2Proof/WellFormed.lean ====
section
/-! DEFINITION. When a command word and a command are well formed (spec 30_encoding.md R91-R96).
A command's only operand is a byte and its type bounds it, so every `Instr` is well formed; the
check with content is on WORDS: which words select a row of the opcode table, by the table's own
match and mask. `Decode.lean` reads words by R95's steps instead, independently of this table. -/

namespace Sys2Proof

/-- One row of the opcode map (R94): a word `w` selects it when `(w & mask) = value`. -/
structure OpcodeRow where
  mnemonic : String
  value : Word
  mask : Word
  deriving DecidableEq, Repr

/-- R94: "A word selects a row when `(w & mask) = match`". -/
def OpcodeRow.selects (r : OpcodeRow) (w : Word) : Bool := w &&& r.mask == r.value

/-- The opcode map of R94, row by row. -/
def opcodeTable : List OpcodeRow :=
  [ ⟨"DEC_CLEAR", 0x00000001, 0xFFFFFFFF⟩,
    ⟨"DEC_LOOKUP", 0x00000002, 0xFFFF00FF⟩,
    ⟨"DEC_PUSH", 0x00000003, 0xFFFF00FF⟩,
    ⟨"DEC_STRING", 0x00000004, 0xFFFFFFFF⟩,
    ⟨"CTR_DERIVE", 0x00000010, 0xFFFFFFFF⟩,
    ⟨"CTR_ENCODE", 0x00000011, 0xFFFFFFFF⟩,
    ⟨"HMAC_START", 0x00000012, 0xFFFFFFFF⟩,
    ⟨"TRUNCATE", 0x00000013, 0xFFFFFFFF⟩,
    ⟨"MOD1M", 0x00000014, 0xFFFFFFFF⟩,
    ⟨"FORMAT", 0x00000015, 0xFFFFFFFF⟩,
    ⟨"GENERATE", 0x00000020, 0xFFFFFFFF⟩ ]

/-- A command word is well formed when it selects a row of the opcode map; every other word is an
illegal encoding (R96). -/
def wellFormedWord (w : Word) : Bool := opcodeTable.any (·.selects w)

/-- The mnemonic of a command, as spec/opcode_table.json spells it. -/
def Instr.mnemonic : Instr → String
  | .decClear => "DEC_CLEAR"
  | .decLookup _ => "DEC_LOOKUP"
  | .decPush _ => "DEC_PUSH"
  | .decString => "DEC_STRING"
  | .ctrDerive => "CTR_DERIVE"
  | .ctrEncode => "CTR_ENCODE"
  | .hmacStart => "HMAC_START"
  | .truncate => "TRUNCATE"
  | .mod1m => "MOD1M"
  | .format => "FORMAT"
  | .generate => "GENERATE"

/-- Every command is well formed: format N has no operand (R91) and format C's `CHAR` is any byte
0x00..0xFF (R92). -/
def Instr.wellFormed : Instr → Bool
  | .decClear => true
  | .decLookup _ => true
  | .decPush _ => true
  | .decString => true
  | .ctrDerive => true
  | .ctrEncode => true
  | .hmacStart => true
  | .truncate => true
  | .mod1m => true
  | .format => true
  | .generate => true

end Sys2Proof
end

