-- ==== Sys2Proof/Decode.lean ====
section
/-! DEFINITION. Command decode (spec 30_encoding.md R95), total on 32-bit words and rejecting by
name, then the encoder (R98) written from the formats R91 and R92. -/

namespace Sys2Proof

/-- Why a word selects no command (R96). Both raise `ILLEGAL_COMMAND` (R205). -/
inductive DecodeError where
  /-- the opcode `w[7:0]` is none of R94's -/
  | unassignedOpcode (op : Byte)
  /-- the opcode is assigned and a reserved bit of its format is not 0 -/
  | reservedBits
  deriving DecidableEq, Repr

/-- What decode answers: the one command the word selects, or why it is illegal (R95: "every 32-bit
word either selects exactly one command or is illegal"). -/
inductive Decoded where
  | command (i : Instr)
  | illegal (why : DecodeError)
  deriving DecidableEq, Repr

/-- `OP = w[7:0]` (R91, R92). -/
def opcodeOf (w : Word) : Byte := w.extractLsb' 0 8

/-- `CHAR = w[15:8]`, "an unsigned 8-bit byte" (R93). -/
def charOf (w : Word) : Byte := w.extractLsb' 8 8

/-- Format N's reserved bits: `w[31:8] = 0` (R91). -/
def reservedZeroN (w : Word) : Bool := w.extractLsb' 8 24 == 0

/-- Format C's reserved bits: `w[31:16] = 0` (R92). -/
def reservedZeroC (w : Word) : Bool := w.extractLsb' 16 16 == 0

/-- The format-N command of an opcode (R94). -/
def formatN (op : Byte) : Option Instr :=
  if op = 0x01 then some .decClear
  else if op = 0x04 then some .decString
  else if op = 0x10 then some .ctrDerive
  else if op = 0x11 then some .ctrEncode
  else if op = 0x12 then some .hmacStart
  else if op = 0x13 then some .truncate
  else if op = 0x14 then some .mod1m
  else if op = 0x15 then some .format
  else if op = 0x20 then some .generate
  else none

/-- The format-C command of an opcode, with its character (R94). -/
def formatC (op c : Byte) : Option Instr :=
  if op = 0x02 then some (.decLookup c)
  else if op = 0x03 then some (.decPush c)
  else none

/-- Command decode (R95). -/
def decode (w : Word) : Decoded :=
  match formatN (opcodeOf w) with
  | some i => if reservedZeroN w then .command i else .illegal .reservedBits
  | none =>
    match formatC (opcodeOf w) (charOf w) with
    | some i => if reservedZeroC w then .command i else .illegal .reservedBits
    | none => .illegal (.unassignedOpcode (opcodeOf w))

/-- A format-N word: the opcode in [7:0] and 0 in [31:8] (R91). -/
def wordN (op : Byte) : Word := 0#24 ++ op

/-- A format-C word: the opcode in [7:0], the character in [15:8] and 0 in [31:16] (R92). -/
def wordC (op c : Byte) : Word := 0#16 ++ c ++ op

/-- The word of a command: R98's assembler, from the opcodes of R94. -/
def encode : Instr → Word
  | .decClear => wordN 0x01
  | .decLookup c => wordC 0x02 c
  | .decPush c => wordC 0x03 c
  | .decString => wordN 0x04
  | .ctrDerive => wordN 0x10
  | .ctrEncode => wordN 0x11
  | .hmacStart => wordN 0x12
  | .truncate => wordN 0x13
  | .mod1m => wordN 0x14
  | .format => wordN 0x15
  | .generate => wordN 0x20

/-- The instruction of the low `nbits` bits of `w`, as spec/opcode_table.json numbers them. A
command is exactly one 32-bit word on a 32-bit bus (R63, R90), so bit 0 of `w` is bit 0 of the
word; more than 32 bits is no command. -/
def decodeTableWord (nbits w : Nat) : Option Instr :=
  if w % 2 ^ nbits < 2 ^ 32 then
    match decode (BitVec.ofNat 32 (w % 2 ^ nbits)) with
    | .command i => some i
    | .illegal _ => none
  else none

end Sys2Proof
end

