-- ==== Sys2Proof/Config.lean ====
section
/-! DEFINITION. What an implementation fixes: the parameters of spec 00_scope.md §4. -/

namespace Sys2Proof

/-- `HMAC_FN` (R9): the function the external engine computes, from a key of any length and an
8-byte message to 20 bytes. The spec makes it a parameter: "A model takes `HMAC_FN` as a
parameter (an opaque total function)". It has no body, so every statement holds for every
`HMAC_FN`. DESIGN CHOICE, assumption log 2 (safe). -/
opaque Config.hmacFn : List Byte → Message → Digest

/-- The default value of the parameter `IN_MAX` (R7). The parameter itself stands in `State.inMax`
(the constant register `PARAM`, R29), so that statements hold for every legal value:
DESIGN CHOICE, assumption log 1 (safe). -/
def Config.inMaxDefault : Nat := 256

/-- The largest legal value of `IN_MAX` (R7: "1 ≤ IN_MAX ≤ 1024"). -/
def Config.inMaxLimit : Nat := 1024

end Sys2Proof
end

