-- ==== Sys2Proof/Machine/State.lean ====
section
/-! DEFINITION. The state of the TOTP core as plain data (spec 10_state.md R20-R50), and the state
after reset (R50, R231). -/

namespace Sys2Proof.Machine

/-- A byte buffer (`IN_BUF`, `KEY_BUF`): the bytes that are not 0, by rising index. An unlisted
index reads 0, the reset value R45 and R46 give every byte. -/
abbrev Memory := List Host.Cell

/-- The kind of request pending at the HMAC engine (R47). The code 3 "never occurs" (R25) and is not
a value of this type: assumption log 8 (safe). -/
inductive Pend where
  | none
  | hmac
  | gen
  deriving DecidableEq, Repr

/-- The values of `STATUS.ERR_CODE` (R201). "Codes 0x05 to 0xFF are never written" and are not values
of this type: assumption log 8 (safe). -/
inductive ErrCode where
  | ok
  | invalidCharacter
  | invalidConfiguration
  | illegalCommand
  | lengthError
  deriving DecidableEq, Repr

/-- The error a command raises, with the information R202 records. -/
inductive CmdError where
  | invalidCharacter (char : Byte) (pos : BitVec 16)
  | invalidConfiguration
  | illegalCommand
  | lengthError
  deriving DecidableEq, Repr

/-- The decoder unit's state (R31-R34, R46). -/
structure Decoder where
  /-- `DEC_NCHARS`: symbols consumed since the last clear (R31) -/
  nchars : BitVec 16
  /-- `DEC_BITS`: accumulated bits not yet emitted (R32) -/
  bits : BitVec 3
  /-- `DEC_ACC`: the accumulator's low `DEC_BITS` bits (R33) -/
  acc : BitVec 7
  /-- `KEY_LEN`: the number of key bytes (R34) -/
  keyLen : BitVec 16
  /-- `KEY_BUF` (R46) -/
  keyBuf : Memory
  deriving DecidableEq, Repr

/-- One step of the machine's environment (R13: `HostRead(a)`, `HostWrite(a, v)`, `EngineRespond`,
`Reset`). -/
inductive Input where
  | hostRead (a : Addr)
  | hostWrite (a : Addr) (v : Word)
  | engineRespond
  | reset
  deriving DecidableEq, Repr

/-- Why a step faults. -/
inductive Fault where
  /-- Raised by `DEC_PUSH` when it would emit a byte at an index `KEY_LEN ≥ KEY_MAX`, outside
  `KEY_BUF` (R46). No reachable state does (R48, R119). Safe: the model stops where the spec gives
  no behaviour; assumption log 7. -/
  | keyBufRange
  deriving DecidableEq, Repr

/-- Why a step is refused. -/
inductive Refusal where
  /-- Raised by `exec` for a command without a meaning; no arm raises it. Safe: the model stops. -/
  | notModelled (mnemonic : String)
  /-- Raised by the input `EngineRespond` while no request is pending: R166 enables that step only
  when `PEND != NONE`, and an answer to a cancelled request is outside the spec (R232, U5 of
  93_implementation_defined.md). Safe: the model stops; assumption log 6. -/
  | responseNotEnabled
  deriving DecidableEq, Repr

/-- The whole machine state. The spec's own state is every field down to `pend`; `inMax` is the
constant behind `PARAM`; `inbox` and `readData` are the model's own fields. -/
structure State where
  /-- `IN_MAX`, read through the constant register `PARAM` (R7, R29); `KEY_MAX` is computed from it
  (R8). No step changes it. DESIGN CHOICE, assumption log 1 (safe). -/
  inMax : Nat
  /-- `STATUS.OVERRUN` (R25) -/
  overrun : Bool
  /-- `STATUS.ERR_CODE` (R25, R201) -/
  errCode : ErrCode
  /-- `ERR_CHAR` (R26) -/
  errChar : Byte
  /-- `ERR_POS` (R27) -/
  errPos : BitVec 16
  /-- `LOOKUP.VALUE` (R28) -/
  lookupValue : BitVec 5
  /-- `LOOKUP.VALID` (R28) -/
  lookupValid : Bool
  /-- `IN_LEN` (R30) -/
  inLen : BitVec 16
  /-- `IN_BUF` (R45) -/
  inBuf : Memory
  /-- `DEC_NCHARS`, `DEC_BITS`, `DEC_ACC`, `KEY_LEN`, `KEY_BUF` (R31-R34, R46) -/
  dec : Decoder
  /-- `TIME_MS`, the pattern `TIME_MS_HI << 32 | TIME_MS_LO` (R35) -/
  timeMs : BitVec 64
  /-- `TIME_STEP` (R36) -/
  timeStep : BitVec 32
  /-- `TIME_OFFSET` (R37) -/
  timeOffset : BitVec 32
  /-- `CTR`, the pattern `CTR_HI << 32 | CTR_LO` (R38) -/
  ctr : BitVec 64
  /-- `MSG[0..7]` (R39) -/
  msg : Message
  /-- `DIGEST[0..19]` (R40) -/
  digest : Digest
  /-- `OFFSET` (R41) -/
  offset : BitVec 4
  /-- `TRUNC` (R42) -/
  trunc : BitVec 31
  /-- `CODE_BIN` (R43) -/
  codeBin : BitVec 20
  /-- `CODE_ASCII[0..5]` (R44) -/
  codeAscii : Digits
  /-- `PEND` (R47); `STATUS.BUSY` and `STATUS.PEND` are views of it -/
  pend : Pend
  /-- The MODEL's own field: the environment's next steps, the next one first (R11-R13). DESIGN
  CHOICE, assumption log 3 (safe). -/
  inbox : List Input
  /-- The MODEL's own field: the word the most recent host read returned, none before the first.
  DESIGN CHOICE, assumption log 5 (safe). -/
  readData : Option Word
  deriving DecidableEq, Repr

/-- The cleared decoder: reset values of R50, also what `DEC_CLEAR` leaves (R116). -/
def Decoder.cleared : Decoder :=
  { nchars := 0, bits := 0, acc := 0, keyLen := 0, keyBuf := [] }

/-- The state right after reset (R50, R231): everything 0 but `TIME_STEP` = 30 and the constant
`PARAM`; `IN_MAX` at its default (R7). -/
def State.reset : State where
  inMax := Config.inMaxDefault
  overrun := false
  errCode := .ok
  errChar := 0
  errPos := 0
  lookupValue := 0
  lookupValid := false
  inLen := 0
  inBuf := []
  dec := Decoder.cleared
  timeMs := 0
  timeStep := 30
  timeOffset := 0
  ctr := 0
  msg := Vector.replicate 8 0
  digest := Vector.replicate 20 0
  offset := 0
  trunc := 0
  codeBin := 0
  codeAscii := Vector.replicate 6 0
  pend := .none
  inbox := []
  readData := none

end Sys2Proof.Machine
end

