-- ==== Sys2Proof/Machine/Flags.lean ====
section
/-! DEFINITION. The fields of `STATUS` and how they are set (spec 10_state.md R25; 60_exceptions.md
R200, R201, R207). The block has no condition codes and no other flags (R22). -/

namespace Sys2Proof.Machine

/-- The code of an outcome in `STATUS.ERR_CODE` (R201). -/
def errCodeBits : ErrCode → Byte
  | .ok => 0x00
  | .invalidCharacter => 0x01
  | .invalidConfiguration => 0x02
  | .illegalCommand => 0x03
  | .lengthError => 0x04

/-- The code of a pending request in `STATUS.PEND` (R25). -/
def pendBits : Pend → BitVec 2
  | .none => 0
  | .hmac => 1
  | .gen => 2

/-- `STATUS.BUSY`: "equals `PEND != NONE`" (R25). -/
def busy (s : State) : Bool := s.pend != .none

/-- The word `STATUS` reads as: BUSY bit 0, OVERRUN bit 1, PEND [3:2], ERR_CODE [15:8], every other
bit 0 (R25). -/
def statusWord (s : State) : Word :=
  0#16 ++ errCodeBits s.errCode ++ 0#4 ++ pendBits s.pend ++ BitVec.ofBool s.overrun ++
    BitVec.ofBool (busy s)

/-- The outcome code of an error (R201). -/
def errCodeOf : CmdError → ErrCode
  | .invalidCharacter _ _ => .invalidCharacter
  | .invalidConfiguration => .invalidConfiguration
  | .illegalCommand => .illegalCommand
  | .lengthError => .lengthError

/-- The only effect of a write to `STATUS`: "if v[1] = 1 then STATUS.OVERRUN <- 0" (R25). -/
def writeStatus (v : Word) (s : State) : State :=
  if v.getLsbD 1 then { s with overrun := false } else s

/-- A host write dropped while busy "changes no state except `STATUS.OVERRUN <- 1`" (R73). -/
def dropWrite (s : State) : State := { s with overrun := true }

end Sys2Proof.Machine
end

