-- ==== Sys2Proof/Machine/Ops.lean ====
section
/-! DEFINITION. The named operations over buffers and registers, reporting an error as one shared
operation (spec 60_exceptions.md R203), and the reset step (70_reset_and_hazards.md R230). -/

namespace Sys2Proof.Machine

/-! ### Byte buffers -/

/-- What an index of a buffer reads as when nothing is listed for it: the reset value 0x00 of
`IN_BUF` (R45) and `KEY_BUF` (R46). Assumption log 9 (safe). -/
def Memory.unlisted : Byte := 0

/-- Read one byte of a buffer. -/
def Memory.read : Memory → Nat → Byte
  | [], _ => Memory.unlisted
  | (k, v) :: rest, i => if k = i then v else Memory.read rest i

/-- Write one byte of a buffer, keeping the canonical form: indices strictly rising, and no entry
that equals what an unlisted index reads as. -/
def Memory.write : Memory → Nat → Byte → Memory
  | [], i, b => if b = Memory.unlisted then [] else [(i, b)]
  | (k, v) :: rest, i, b =>
    if i < k then
      if b = Memory.unlisted then (k, v) :: rest else (i, b) :: (k, v) :: rest
    else if i = k then
      if b = Memory.unlisted then rest else (i, b) :: rest
    else (k, v) :: Memory.write rest i b

/-- Every index of a list of cells is at least `lo` and rises strictly, and no byte equals what an
unlisted index reads as. -/
def Memory.wfFrom : Nat → Memory → Bool
  | _, [] => true
  | lo, (k, v) :: rest =>
    decide (lo ≤ k) && (v != Memory.unlisted) && Memory.wfFrom (k + 1) rest

/-- The canonical form of a buffer. -/
def Memory.wf (m : Memory) : Bool := Memory.wfFrom 0 m

/-- The bytes at indices `0 .. n-1`, in order. -/
def Memory.bytes (m : Memory) (n : Nat) : List Byte := (List.range n).map (Memory.read m)

/-! ### Parameters -/

/-- `KEY_MAX = floor(IN_MAX * 5 / 8)` (R8). -/
def keyMax (s : State) : Nat := s.inMax * 5 / 8

/-! ### Halves of a 64-bit register (R69, R70) -/

/-- Bits [31:0]. -/
def loHalf (x : BitVec 64) : Word := x.extractLsb' 0 32

/-- Bits [63:32]. -/
def hiHalf (x : BitVec 64) : Word := x.extractLsb' 32 32

/-- `x` with bits [31:0] replaced by `v`. -/
def setLoHalf (x : BitVec 64) (v : Word) : BitVec 64 := hiHalf x ++ v

/-- `x` with bits [63:32] replaced by `v`. -/
def setHiHalf (x : BitVec 64) (v : Word) : BitVec 64 := v ++ loHalf x

/-! ### The end of a command -/

/-- A command that completes writes `STATUS.ERR_CODE <- OK` (R200, R208). -/
def succeed (s : State) : State := { s with errCode := .ok }

/-- `raise E(info)` (R203): the error's code is written, `INVALID_CHARACTER` also writes `ERR_CHAR`
and `ERR_POS`, and "every other piece of state … keeps the value it had before the command". There
is no trap, no saved context and no return (R200, R212). -/
def raise (e : CmdError) (s : State) : State :=
  match e with
  | .invalidCharacter char pos =>
    { s with errCode := errCodeOf e, errChar := char, errPos := pos }
  | .invalidConfiguration => { s with errCode := errCodeOf e }
  | .illegalCommand => { s with errCode := errCodeOf e }
  | .lengthError => { s with errCode := errCodeOf e }

/-! ### Reset -/

/-- The step `Reset` (R230, R231), at any time, a pending request included (R232): every piece of
the block's state at its reset value, `PARAM` unchanged. The environment's own fields stay:
assumption log 10 (safe). -/
def resetBlock (s : State) : State :=
  { State.reset with inMax := s.inMax, inbox := s.inbox, readData := s.readData }

end Sys2Proof.Machine
end

