-- ==== Sys2Proof/Machine/Operands.lean ====
section
/-! DEFINITION. The operand forms of the commands: a character and its symbol value (spec
40_base32.md R111, R112), the token (R120, R121), and the signed readings of the configuration and
time registers (10_state.md R35-R37; 00_scope.md R15). -/

namespace Sys2Proof.Machine

/-- `NORM` (R111): ASCII `'a'`..`'z'` become `'A'`..`'Z'` and every other byte is unchanged. -/
def norm (c : Byte) : Byte := if 0x61 ≤ c ∧ c ≤ 0x7A then c - 0x20 else c

/-- `B32VAL` (R112) of a normalised byte, `none` for INVALID. -/
def b32val (c : Byte) : Option (BitVec 5) :=
  if 0x41 ≤ c ∧ c ≤ 0x5A then some ((c - 0x41).setWidth 5)
  else if 0x32 ≤ c ∧ c ≤ 0x37 then some ((c - 0x18).setWidth 5)
  else none

/-- The padding character `'='` (R17, R111). -/
def padChar : Byte := 0x3D

/-- The length of the token once its trailing `'='` are stripped (R120: "while m > 0 and
IN_BUF[m-1] = 0x3D: m <- m - 1"). -/
def strippedLen (buf : Memory) : Nat → Nat
  | 0 => 0
  | m + 1 => if Memory.read buf m = padChar then strippedLen buf m else m + 1

/-- The token's characters `IN_BUF[0 .. m-1]`, `m` its stripped length. -/
def token (s : State) : List Byte :=
  Memory.bytes s.inBuf (strippedLen s.inBuf s.inLen.toNat)

/-- `s32(TIME_STEP)` (R36). -/
def timeStepSeconds (s : State) : Int := s.timeStep.toInt

/-- `s32(TIME_OFFSET)` (R37). -/
def timeOffsetSeconds (s : State) : Int := s.timeOffset.toInt

/-- `s64(TIME_MS)` (R35). -/
def timeMillis (s : State) : Int := s.timeMs.toInt

/-- The key of the HMAC request, `KEY_BUF[0 .. KEY_LEN-1]` (R46, R160). -/
def hmacKey (s : State) : List Byte := Memory.bytes s.dec.keyBuf s.dec.keyLen.toNat

end Sys2Proof.Machine
end

