-- ==== Sys2Proof/Machine/Base32.lean ====
section
/-! DEFINITION. The Base32 decoder unit and its commands `DEC_CLEAR`, `DEC_LOOKUP`, `DEC_PUSH` and
`DEC_STRING` (spec 40_base32.md R110-R124). -/

namespace Sys2Proof.Machine

/-- What one repacking step gives: the accumulator, the bit count and the byte emitted, if any. -/
structure Repacked where
  acc : Nat
  bits : Nat
  out : Option Nat
  deriving DecidableEq, Repr

/-- `STEP(acc, bits, v)` (R114), on exact integers (R15). -/
def repack (acc bits v : Nat) : Repacked :=
  let t := acc <<< 5 ||| v
  let b := bits + 5
  if 8 ≤ b then
    { acc := t &&& (2 ^ (b - 8) - 1), bits := b - 8, out := some ((t >>> (b - 8)) &&& 0xFF) }
  else { acc := t, bits := b, out := none }

/-- `STEP` on the decoder's registers. -/
def decoderStep (d : Decoder) (v : BitVec 5) : Repacked :=
  repack d.acc.toNat d.bits.toNat v.toNat

/-- Take one symbol into the decoder (the body of R119 and of R120's loop): `STEP`, the byte it
emits stored at `KEY_BUF[KEY_LEN]`, and the symbol counted. In states R48 excludes the results are cut
to their registers: assumption log 12 (safe). -/
def pushSymbol (d : Decoder) (v : BitVec 5) : Decoder :=
  let r := decoderStep d v
  match r.out with
  | some b =>
    { nchars := d.nchars + 1, bits := BitVec.ofNat 3 r.bits, acc := BitVec.ofNat 7 r.acc,
      keyLen := d.keyLen + 1,
      keyBuf := Memory.write d.keyBuf d.keyLen.toNat (BitVec.ofNat 8 b) }
  | none =>
    { nchars := d.nchars + 1, bits := BitVec.ofNat 3 r.bits, acc := BitVec.ofNat 7 r.acc,
      keyLen := d.keyLen, keyBuf := d.keyBuf }

/-- The loop of `DEC_STRING` (R120) from position `pos` on: left to right, an invalid character
raises `INVALID_CHARACTER` with the normalised byte and its position, which fits `ERR_POS`: assumption
log 13 (safe). -/
def decodeChars : Nat → List Byte → Decoder → Except CmdError Decoder
  | _, [], d => .ok d
  | pos, c :: cs, d =>
    match b32val (norm c) with
    | none => .error (.invalidCharacter (norm c) (BitVec.ofNat 16 pos))
    | some v => decodeChars (pos + 1) cs (pushSymbol d v)

/-- The staged decode of the whole token (R120), shared by `DEC_STRING` and `GENERATE` (R190): the
length check, then the stripped token into a cleared staged copy. Nothing is committed here. The copy's
symbol count is R120's `m`: assumption log 15 (safe). -/
def stageDecode (s : State) : Except CmdError Decoder :=
  if s.inMax < s.inLen.toNat then .error .lengthError
  else decodeChars 0 (token s) Decoder.cleared

/-- `DEC_CLEAR` (R116). -/
def execDecClear (s : State) : Host.Outcome State Fault Refusal :=
  .next (succeed { s with dec := Decoder.cleared })

/-- `DEC_LOOKUP c` (R117): an invalid character is reported by `VALID` = 0, not by an error. -/
def execDecLookup (c : Byte) (s : State) : Host.Outcome State Fault Refusal :=
  match b32val (norm c) with
  | none => .next (succeed { s with lookupValid := false, lookupValue := 0 })
  | some v => .next (succeed { s with lookupValid := true, lookupValue := v })

/-- Whether the byte `STEP` emits, if it emits one, has a place in `KEY_BUF` (R46). R119 derives from
R48 that it always has. -/
def keyHasRoom (s : State) (v : BitVec 5) : Bool :=
  (decoderStep s.dec v).out.isNone || decide (s.dec.keyLen.toNat < keyMax s)

/-- `DEC_PUSH c` (R119): the length check first, then the character. The fault is for states R48
excludes: assumption log 7 (safe). -/
def execDecPush (c : Byte) (s : State) : Host.Outcome State Fault Refusal :=
  if s.dec.nchars.toNat = s.inMax then .next (raise .lengthError s)
  else
    match b32val (norm c) with
    | none => .next (raise (.invalidCharacter (norm c) s.dec.nchars) s)
    | some v =>
      if keyHasRoom s v then .next (succeed { s with dec := pushSymbol s.dec v })
      else .fault .keyBufRange

/-- `DEC_STRING` (R120): all or nothing. -/
def execDecString (s : State) : Host.Outcome State Fault Refusal :=
  match stageDecode s with
  | .error e => .next (raise e s)
  | .ok d => .next (succeed { s with dec := d })

end Sys2Proof.Machine
end

