-- ==== Sys2Proof/Machine/Counter.lean ====
section
/-! DEFINITION. The commands `CTR_DERIVE` and `CTR_ENCODE` (spec 41_counter.md R140-R146). -/

namespace Sys2Proof.Machine

/-- The derived counter, an exact integer (R141): `floor_div(T, 1000 * step)`, rounded toward minus
infinity (R15), of `T = s64(TIME_MS) + 1000 * s32(TIME_OFFSET)`. -/
def counterOf (s : State) : Int :=
  Int.fdiv (timeMillis s + 1000 * timeOffsetSeconds s) (1000 * timeStepSeconds s)

/-- `CTR <- u64(c)` (R141): its 64-bit two's complement. -/
def deriveCounter (s : State) : State := { s with ctr := BitVec.ofInt 64 (counterOf s) }

/-- `MSG[k] <- CTR[63 - 8k : 56 - 8k]` for k = 0 .. 7 (R145): big-endian. -/
def encodeCounter (s : State) : State :=
  { s with msg := Vector.ofFn fun k : Fin 8 => s.ctr.extractLsb' (56 - 8 * k.val) 8 }

/-- `CTR_DERIVE` (R141). -/
def execCtrDerive (s : State) : Host.Outcome State Fault Refusal :=
  if timeStepSeconds s ≤ 0 then .next (raise .invalidConfiguration s)
  else .next (succeed (deriveCounter s))

/-- `CTR_ENCODE` (R145). -/
def execCtrEncode (s : State) : Host.Outcome State Fault Refusal :=
  .next (succeed (encodeCounter s))

end Sys2Proof.Machine
end

