-- ==== Sys2Proof/Machine/Generate.lean ====
section
/-! DEFINITION. `GENERATE`, first phase (spec 43_generate.md R190, R191). Its second phase is the
engine's response, in Engine.lean. -/

namespace Sys2Proof.Machine

/-- `GENERATE`, first phase (R190): the checks in R209's order, "any raise commits nothing"; then
the counter, the message, the staged decode and the request are committed together. -/
def execGenerate (s : State) : Host.Outcome State Fault Refusal :=
  if timeStepSeconds s ≤ 0 then .next (raise .invalidConfiguration s)
  else
    match stageDecode s with
    | .error e => .next (raise e s)
    | .ok d => .next (succeed { encodeCounter (deriveCounter s) with dec := d, pend := .gen })

end Sys2Proof.Machine
end

