-- ==== Sys2Proof/Machine/Pipeline.lean ====
section
/-! DEFINITION. The commands `HMAC_START`, `TRUNCATE`, `MOD1M` and `FORMAT` (spec
42_hmac_truncate_format.md R160-R173). The engine's response is in Engine.lean. -/

namespace Sys2Proof.Machine

/-- The dynamic-truncation offset `DIGEST[19] & 0x0F` (R169). -/
def offsetOf (d : Digest) : BitVec 4 := d[19].setWidth 4

/-- The 32-bit window of the digest at offset `o`, big-endian (R169). It is always inside the digest
(R170). -/
def windowAt (d : Digest) (o : BitVec 4) : Word :=
  d[o.toNat]'(by omega) ++ d[o.toNat + 1]'(by omega) ++ d[o.toNat + 2]'(by omega) ++
    d[o.toNat + 3]'(by omega)

/-- `OFFSET` and `TRUNC` from the digest (R169): the window's low 31 bits. -/
def truncateDigest (s : State) : State :=
  { s with
    offset := offsetOf s.digest
    trunc := (windowAt s.digest (offsetOf s.digest)).setWidth 31 }

/-- `CODE_BIN <- TRUNC mod 1000000` (R171). -/
def reduceTrunc (s : State) : State :=
  { s with codeBin := BitVec.ofNat 20 (s.trunc.toNat % 1000000) }

/-- The ASCII digit of `n` with weight `10^(5-k)` (R172). -/
def asciiDigit (n k : Nat) : Byte := BitVec.ofNat 8 (0x30 + n / 10 ^ (5 - k) % 10)

/-- `CODE_ASCII` from `CODE_BIN`, the most significant digit first (R172). -/
def formatCode (s : State) : State :=
  { s with codeAscii := Vector.ofFn fun k : Fin 6 => asciiDigit s.codeBin.toNat k.val }

/-- `HMAC_START`, first phase (R161): the request for `KEY_BUF[0..KEY_LEN-1]` and `MSG` as they
stand. -/
def execHmacStart (s : State) : Host.Outcome State Fault Refusal :=
  .next (succeed { s with pend := .hmac })

/-- `TRUNCATE` (R169). -/
def execTruncate (s : State) : Host.Outcome State Fault Refusal :=
  .next (succeed (truncateDigest s))

/-- `MOD1M` (R171). -/
def execMod1m (s : State) : Host.Outcome State Fault Refusal :=
  .next (succeed (reduceTrunc s))

/-- `FORMAT` (R172). -/
def execFormat (s : State) : Host.Outcome State Fault Refusal :=
  .next (succeed (formatCode s))

end Sys2Proof.Machine
end

