-- ==== Sys2Proof/Machine/Dispatch.lean ====
section
/-! DEFINITION. What each command does: one arm per constructor of `Instr`, each one direct call of
the command's meaning (spec 30_encoding.md R94). -/

namespace Sys2Proof.Machine

def exec (i : Instr) (s : State) : Host.Outcome State Fault Refusal :=
  match i with
  | .decClear => Sys2Proof.Machine.execDecClear s
  | .decLookup c => Sys2Proof.Machine.execDecLookup c s
  | .decPush c => Sys2Proof.Machine.execDecPush c s
  | .decString => Sys2Proof.Machine.execDecString s
  | .ctrDerive => Sys2Proof.Machine.execCtrDerive s
  | .ctrEncode => Sys2Proof.Machine.execCtrEncode s
  | .hmacStart => Sys2Proof.Machine.execHmacStart s
  | .truncate => Sys2Proof.Machine.execTruncate s
  | .mod1m => Sys2Proof.Machine.execMod1m s
  | .format => Sys2Proof.Machine.execFormat s
  | .generate => Sys2Proof.Machine.execGenerate s

end Sys2Proof.Machine
end

