-- ==== Sys2Proof/Machine/Bus.lean ====
section
/-! DEFINITION. The host bus: the address map (spec 20_memory.md R62), reads (R65) and writes (R66,
R73) with their legalisation (10_state.md R23), and the execution of a command word (R24, R95). -/

namespace Sys2Proof.Machine

/-- What a word address names (R62). -/
inductive Reg where
  | cmd | status | errChar | errPos | lookup | param
  | inLen | decNchars | decBits | decAcc | keyLen
  | timeMsLo | timeMsHi | timeStep | timeOffset | ctrLo | ctrHi
  | msg (k : Fin 8)
  | digest (k : Fin 20)
  | offset | trunc | codeBin
  | codeAscii (k : Fin 6)
  | inBuf (i : Nat)
  | keyBuf (i : Nat)
  | unmapped
  deriving DecidableEq, Repr

/-- `base .. base+n-1` as an index below `n`. -/
def indexFrom (base n : Nat) (a : Nat) : Option (Fin n) :=
  if base ≤ a then if h : a - base < n then some ⟨a - base, h⟩ else none else none

/-- The addresses that name one register each (R62). -/
def singleReg (a : Nat) : Reg :=
  match a with
  | 0x000 => .cmd
  | 0x001 => .status
  | 0x002 => .errChar
  | 0x003 => .errPos
  | 0x004 => .lookup
  | 0x005 => .param
  | 0x008 => .inLen
  | 0x009 => .decNchars
  | 0x00A => .decBits
  | 0x00B => .decAcc
  | 0x00C => .keyLen
  | 0x010 => .timeMsLo
  | 0x011 => .timeMsHi
  | 0x012 => .timeStep
  | 0x013 => .timeOffset
  | 0x014 => .ctrLo
  | 0x015 => .ctrHi
  | 0x034 => .offset
  | 0x035 => .trunc
  | 0x036 => .codeBin
  | _ => .unmapped

/-- The windows of byte registers below 0x400 (R62). -/
def byteReg (a : Nat) : Reg :=
  match indexFrom 0x018 8 a with
  | some k => .msg k
  | none =>
    match indexFrom 0x020 20 a with
    | some k => .digest k
    | none =>
      match indexFrom 0x038 6 a with
      | some k => .codeAscii k
      | none => singleReg a

/-- The address map (R62). The buffer windows end at `IN_MAX` and `KEY_MAX`; the rest of them and
0xC00 .. 0xFFF are unmapped. -/
def regAt (s : State) (a : Addr) : Reg :=
  if a.toNat < 0x400 then byteReg a.toNat
  else if a.toNat < 0x800 then
    if a.toNat - 0x400 < s.inMax then .inBuf (a.toNat - 0x400) else .unmapped
  else if a.toNat < 0xC00 then
    if a.toNat - 0x800 < keyMax s then .keyBuf (a.toNat - 0x800) else .unmapped
  else .unmapped

/-- The word a register reads as; bits outside every field read 0 (R23). `CMD` and unmapped
addresses read 0 (R24, R64). -/
def readReg (s : State) : Reg → Word
  | .cmd => 0
  | .status => statusWord s
  | .errChar => s.errChar.setWidth 32
  | .errPos => s.errPos.setWidth 32
  | .lookup => 0#23 ++ BitVec.ofBool s.lookupValid ++ 0#3 ++ s.lookupValue
  | .param => BitVec.ofNat 16 (keyMax s) ++ BitVec.ofNat 16 s.inMax
  | .inLen => s.inLen.setWidth 32
  | .decNchars => s.dec.nchars.setWidth 32
  | .decBits => s.dec.bits.setWidth 32
  | .decAcc => s.dec.acc.setWidth 32
  | .keyLen => s.dec.keyLen.setWidth 32
  | .timeMsLo => loHalf s.timeMs
  | .timeMsHi => hiHalf s.timeMs
  | .timeStep => s.timeStep
  | .timeOffset => s.timeOffset
  | .ctrLo => loHalf s.ctr
  | .ctrHi => hiHalf s.ctr
  | .msg k => s.msg[k].setWidth 32
  | .digest k => s.digest[k].setWidth 32
  | .offset => s.offset.setWidth 32
  | .trunc => s.trunc.setWidth 32
  | .codeBin => s.codeBin.setWidth 32
  | .codeAscii k => s.codeAscii[k].setWidth 32
  | .inBuf i => (Memory.read s.inBuf i).setWidth 32
  | .keyBuf i => (Memory.read s.dec.keyBuf i).setWidth 32
  | .unmapped => 0

/-- The word at an address: `MemRead(a, 4)` (R63, R65). -/
def busRead (s : State) (a : Addr) : Word := readReg s (regAt s a)

/-- `HostRead(a)` (R13): the block's state does not change (R65); the word goes to the host. -/
def hostRead (a : Addr) (s : State) : State := { s with readData := some (busRead s a) }

/-- An accepted write of `v` to a register other than `CMD` and `STATUS`: a RW register stores the
legalised value and has no other effect; a write to a RO register or an unmapped address is ignored
(R23, R64, R66, R67). -/
def writeReg (v : Word) (s : State) : Reg → State
  | .inLen => { s with inLen := v.setWidth 16 }
  | .timeMsLo => { s with timeMs := setLoHalf s.timeMs v }
  | .timeMsHi => { s with timeMs := setHiHalf s.timeMs v }
  | .timeStep => { s with timeStep := v }
  | .timeOffset => { s with timeOffset := v }
  | .ctrLo => { s with ctr := setLoHalf s.ctr v }
  | .ctrHi => { s with ctr := setHiHalf s.ctr v }
  | .digest k => { s with digest := s.digest.set k (v.setWidth 8) }
  | .inBuf i => { s with inBuf := Memory.write s.inBuf i (v.setWidth 8) }
  | .cmd => s
  | .status => s
  | .errChar => s
  | .errPos => s
  | .lookup => s
  | .param => s
  | .decNchars => s
  | .decBits => s
  | .decAcc => s
  | .keyLen => s
  | .msg _ => s
  | .offset => s
  | .trunc => s
  | .codeBin => s
  | .codeAscii _ => s
  | .keyBuf _ => s
  | .unmapped => s

/-- An accepted write of `w` to `CMD`: decode, then the command, or `ILLEGAL_COMMAND` (R95, R205). -/
def runCommand (w : Word) (s : State) : Host.Outcome State Fault Refusal :=
  match decode w with
  | .command i => exec i s
  | .illegal _ => .next (raise .illegalCommand s)

/-- The word address of `CMD` (R24). -/
def cmdAddr : Addr := 0x000

/-- The word address of `STATUS` (R25). -/
def statusAddr : Addr := 0x001

/-- `HostWrite(a, v)` (R13): a write to `STATUS` is never dropped; while busy every other write is
dropped (R73); an accepted write to `CMD` executes a command (R66). -/
def hostWrite (a : Addr) (v : Word) (s : State) : Host.Outcome State Fault Refusal :=
  if a = statusAddr then .next (writeStatus v s)
  else if busy s then .next (dropWrite s)
  else if a = cmdAddr then runCommand v s
  else .next (writeReg v s (regAt s a))

end Sys2Proof.Machine
end

