-- ==== Sys2Proof/Machine/Engine.lean ====
section
/-! DEFINITION. The step `EngineRespond` of the external HMAC engine (spec 42_hmac_truncate_format.md
R164-R166; 43_generate.md R192). -/

namespace Sys2Proof.Machine

/-- The response `d` to an `HMAC_START` request (R164): `DIGEST` and `PEND` only. -/
def respondHmac (d : Digest) (s : State) : State := { s with digest := d, pend := .none }

/-- The response `d` to a `GENERATE` request (R165, R192): the digest, then truncation, reduction
and formatting, then `PEND <- NONE`, in one step; `ERR_CODE` is kept. -/
def respondGen (d : Digest) (s : State) : State :=
  { formatCode (reduceTrunc (truncateDigest { s with digest := d })) with pend := .none }

/-- The response `d` to whatever request is pending; with none pending the step is not enabled
(R166): assumption log 6 (safe). -/
def engineResponse (d : Digest) (s : State) : Host.Outcome State Fault Refusal :=
  match s.pend with
  | .none => .refused .responseNotEnabled
  | .hmac => .next (respondHmac d s)
  | .gen => .next (respondGen d s)

/-- `EngineRespond` (R166): the digest is `HMAC_FN(KEY_BUF[0 .. KEY_LEN-1], MSG[0 .. 7])`. -/
def engineRespond (s : State) : Host.Outcome State Fault Refusal :=
  engineResponse (Config.hmacFn (hmacKey s) s.msg) s

end Sys2Proof.Machine
end

