-- ==== Sys2Proof/Machine/Step.lean ====
section
/-! DEFINITION. One step of the machine (spec 00_scope.md R13): the next of the environment's steps
`HostRead`, `HostWrite`, `EngineRespond` and `Reset`. -/

namespace Sys2Proof.Machine

/-- One step. The next input is taken off `inbox` and acts on the rest. With no input the core is
idle and its state stands (R217); a pending request then hangs (R167). Assumption log 3 (safe). -/
def step (s : State) : Host.Outcome State Fault Refusal :=
  match s.inbox with
  | [] => .next s
  | .hostRead a :: rest => .next (hostRead a { s with inbox := rest })
  | .hostWrite a v :: rest => hostWrite a v { s with inbox := rest }
  | .engineRespond :: rest => engineRespond { s with inbox := rest }
  | .reset :: rest => .next (resetBlock { s with inbox := rest })

/-- `s` with the command word `w` (its low `nbits` bits) as the very next step: a host write to
`CMD`, with no request pending, so that the write is accepted (R24, R73). The core fetches nothing
(R21): assumption log 4. -/
def State.withFetchWord (s : State) (nbits w : Nat) : State :=
  { s with
    pend := .none
    inbox := .hostWrite cmdAddr (BitVec.ofNat 32 (w % 2 ^ nbits)) :: s.inbox }

end Sys2Proof.Machine
end

