-- ==== Sys2Proof/Safety.lean ====
section
/-! DEFINITION. The invariants of the spec (10_state.md R48, R49) and of the model's own data, and
what a safe step is. -/

namespace Sys2Proof.Machine

/-- The legal range of the parameter `IN_MAX` (R7). -/
def ParamLegal (s : State) : Prop := 1 ≤ s.inMax ∧ s.inMax ≤ Config.inMaxLimit

/-- The decoder invariants, clause by clause of R48. -/
structure DecoderInv (s : State) : Prop where
  /-- clause 1 -/
  nchars_le : s.dec.nchars.toNat ≤ s.inMax
  /-- clause 2 -/
  bits_eq : s.dec.bits.toNat = 5 * s.dec.nchars.toNat % 8
  /-- clause 3 -/
  keyLen_eq : s.dec.keyLen.toNat = 5 * s.dec.nchars.toNat / 8
  /-- clause 4 -/
  acc_lt : s.dec.acc.toNat < 2 ^ s.dec.bits.toNat
  /-- clause 5, for every index at or above `KEY_LEN` -/
  key_zero : ∀ i, s.dec.keyLen.toNat ≤ i → Memory.read s.dec.keyBuf i = 0

/-- The one pipeline invariant of R49 that the fields' types do not already give. -/
def PipelineInv (s : State) : Prop := s.codeBin.toNat ≤ 999999

/-- The buffers are in canonical form, and nothing is listed at or above `IN_MAX` in `IN_BUF`. -/
structure BufferInv (s : State) : Prop where
  inBuf_wf : Memory.wf s.inBuf = true
  keyBuf_wf : Memory.wf s.dec.keyBuf = true
  in_zero : ∀ i, s.inMax ≤ i → Memory.read s.inBuf i = 0

/-- The invariant of the machine: what holds after reset and after every step. -/
structure Inv (s : State) : Prop where
  param : ParamLegal s
  decoder : DecoderInv s
  pipeline : PipelineInv s
  buffers : BufferInv s

/-- An outcome that is no fault. -/
def NoFault (o : Host.Outcome State Fault Refusal) : Prop := ∀ f, o ≠ .fault f

/-- Whether the state's next input is a step the spec enables: every input but an `EngineRespond`
with no request pending (R166). -/
def InputEnabled (s : State) : Prop :=
  s.pend = .none → s.inbox.head? ≠ some .engineRespond

end Sys2Proof.Machine
end

