-- ==== Sys2Proof/Certificates/Slice0/Obligations.lean ====
section
/-! DEFINITION. The statements about the machine, each from the numbered rules of spec/ that its
docstring and OBLIGATIONS.json name. A frame is written `t = { s with f := t.f, … }`: every field
not named is the one `s` had. -/

namespace Sys2Proof.Claims

open Sys2Proof.Machine

/-- The number whose digits in a base are `ds`, the most significant first (R14's big-endian
reading for base 256). -/
def beValue (base : Nat) (ds : List Nat) : Nat := ds.foldl (fun x d => x * base + d) 0

/-- Every character of a token is in the alphabet after normalisation (R111, R112). -/
def AllValid (cs : List Byte) : Prop := ∀ c ∈ cs, (b32val (norm c)).isSome = true

/-- The symbol value of a valid character, as a number. -/
def symbolOf (c : Byte) : Nat := ((b32val (norm c)).getD 0).toNat

/-- The symbol value R113's table gives a byte: an uppercase letter, its lowercase letter, a digit
`'2'`..`'7'`; every other byte is invalid. -/
def tableValue (c : Nat) : Option Nat :=
  if 0x41 ≤ c ∧ c ≤ 0x5A then some (c - 0x41)
  else if 0x61 ≤ c ∧ c ≤ 0x7A then some (c - 0x61)
  else if 0x32 ≤ c ∧ c ≤ 0x37 then some (c - 0x32 + 26)
  else none

/-- `DEC_PUSH` of each character in turn (R122). -/
def pushAll : List Byte → State → Host.Outcome State Fault Refusal
  | [], s => .next s
  | c :: cs, s =>
    match exec (.decPush c) s with
    | .next t => pushAll cs t
    | .fault f => .fault f
    | .refused r => .refused r

/-- The character of a symbol value (R113's table). -/
def b32Char (v : Nat) : Byte := if v < 26 then BitVec.ofNat 8 (0x41 + v) else BitVec.ofNat 8 (0x18 + v)

/-- The first `n` of the eight characters of a 40-bit group, the most significant symbol first, then
`'='` up to eight characters. -/
def b32Group (x n : Nat) : List Byte :=
  ((List.range 8).map fun k => if k < n then b32Char (x / 32 ^ (7 - k) % 32) else padChar)

/-- The standard padded Base32 encoding of a byte sequence (RFC 4648, as R123 and I8 of
93_implementation_defined.md use it): groups of five bytes become eight characters, and a last
group of 1, 2, 3 or 4 bytes is filled with zero bits and gives 2, 4, 5 or 7 characters and `'='`. -/
def b32Encode : List Byte → List Byte
  | a :: b :: c :: d :: e :: rest =>
    b32Group (beValue 256 [a.toNat, b.toNat, c.toNat, d.toNat, e.toNat]) 8 ++ b32Encode rest
  | [a, b, c, d] => b32Group (beValue 256 [a.toNat, b.toNat, c.toNat, d.toNat, 0]) 7
  | [a, b, c] => b32Group (beValue 256 [a.toNat, b.toNat, c.toNat, 0, 0]) 5
  | [a, b] => b32Group (beValue 256 [a.toNat, b.toNat, 0, 0, 0]) 4
  | [a] => b32Group (beValue 256 [a.toNat, 0, 0, 0, 0]) 2
  | [] => []

/-- `T = s64(TIME_MS) + 1000 * s32(TIME_OFFSET)` in milliseconds (R141). -/
def timeT (s : State) : Int := s.timeMs.toInt + 1000 * s.timeOffset.toInt

/-- The fields a host may write and `GENERATE` reads agree in two states (R194): the token, the
time and the configuration. -/
def SameInputs (s₁ s₂ : State) : Prop :=
  s₁.inMax = s₂.inMax ∧ s₁.inLen = s₂.inLen ∧
  (∀ i, i < s₁.inLen.toNat → Memory.read s₁.inBuf i = Memory.read s₂.inBuf i) ∧
  s₁.timeMs = s₂.timeMs ∧ s₁.timeStep = s₂.timeStep ∧ s₁.timeOffset = s₂.timeOffset

/-- The same token and configuration, at whatever times (R195). -/
def SameTokenAndConfig (s₁ s₂ : State) : Prop :=
  s₁.inMax = s₂.inMax ∧ s₁.inLen = s₂.inLen ∧
  (∀ i, i < s₁.inLen.toNat → Memory.read s₁.inBuf i = Memory.read s₂.inBuf i) ∧
  s₁.timeStep = s₂.timeStep ∧ s₁.timeOffset = s₂.timeOffset

/-- The bits a host write stores in the register at a word address, for the RW registers of R62
other than `CMD` and `STATUS`. -/
def storedBits (inMax a : Nat) : Option Word :=
  if a = 0x008 then some 0x0000FFFF
  else if 0x010 ≤ a ∧ a ≤ 0x015 then some 0xFFFFFFFF
  else if 0x020 ≤ a ∧ a ≤ 0x033 then some 0x000000FF
  else if 0x400 ≤ a ∧ a < 0x400 + inMax then some 0x000000FF
  else none

/-- The addresses R62 lists as unmapped. -/
def UnmappedAddress (inMax a : Nat) : Prop :=
  a = 0x006 ∨ a = 0x007 ∨ (0x00D ≤ a ∧ a ≤ 0x00F) ∨ a = 0x016 ∨ a = 0x017 ∨ a = 0x037 ∨
  (0x03E ≤ a ∧ a ≤ 0x3FF) ∨ (0x400 + inMax ≤ a ∧ a < 0x800) ∨
  (0x800 + inMax * 5 / 8 ≤ a ∧ a < 0xC00) ∨ 0xC00 ≤ a

end Sys2Proof.Claims

open Sys2Proof Sys2Proof.Machine Sys2Proof.Claims

/-! ### Commands as words -/

/-- R24, R66, R95: an accepted write to `CMD` executes the command its word decodes to. This machine
fetches nothing (R21): the write comes from the model's `inbox` (assumption logs 3 and 4), which the
step takes it off. -/
def Obligations.StepRunsDecodedCommand : Prop :=
  (∀ (s : State) (w : Word) (i : Instr) (rest : List Input),
    s.inbox = .hostWrite cmdAddr w :: rest → s.pend = .none → decode w = .command i →
      step s = exec i { s with inbox := rest }) ∧
  (∀ (s : State) (w : Word) (i : Instr), decode w = .command i →
    step (s.withFetchWord 32 w.toNat) = exec i { s with pend := .none })

/-- R205: every word that selects no row of the opcode map raises `ILLEGAL_COMMAND`, and only
`ERR_CODE` changes. -/
def Obligations.IllegalWordChangesOnlyErrCode : Prop :=
  ∀ (s : State) (w : Word) (rest : List Input),
    s.inbox = .hostWrite cmdAddr w :: rest → s.pend = .none →
    (∀ r ∈ opcodeTable, w &&& r.mask ≠ r.value) →
      step s = .next { s with inbox := rest, errCode := .illegalCommand }

/-- R94, R95: a word decodes to a command exactly when it selects a row, the command is that row's,
and no word selects two rows. -/
def Obligations.DecodeAgreesWithOpcodeTable : Prop :=
  ∀ w : Word,
    (∀ r ∈ opcodeTable, w &&& r.mask = r.value →
      ∃ i, decode w = .command i ∧ i.mnemonic = r.mnemonic) ∧
    (∀ i, decode w = .command i → ∃ r ∈ opcodeTable, w &&& r.mask = r.value ∧
      i.mnemonic = r.mnemonic) ∧
    (∀ r ∈ opcodeTable, ∀ r' ∈ opcodeTable, w &&& r.mask = r.value → w &&& r'.mask = r'.value →
      r = r')

/-- R93, R94, R98: words written out from the spec's encodings. -/
def Obligations.SpecWordsDecode : Prop :=
  decode 0x00000001 = .command .decClear ∧ decode 0x00007A02 = .command (.decLookup 0x7A) ∧
  decode 0x00004703 = .command (.decPush 0x47) ∧ decode 0x00000004 = .command .decString ∧
  decode 0x00000010 = .command .ctrDerive ∧ decode 0x00000011 = .command .ctrEncode ∧
  decode 0x00000012 = .command .hmacStart ∧ decode 0x00000013 = .command .truncate ∧
  decode 0x00000014 = .command .mod1m ∧ decode 0x00000015 = .command .format ∧
  decode 0x00000020 = .command .generate ∧ decode 0x00000000 = .illegal (.unassignedOpcode 0) ∧
  decode 0x00010003 = .illegal .reservedBits

/-- R91, R92, R94, R98: decoding the word of any command gives the command back, with every
character. -/
def Obligations.DecodeOfEncode : Prop := ∀ i : Instr, decode (encode i) = .command i

/-- R94, R95: a command has one word: a word that decodes to it is its encoding. -/
def Obligations.EncodeOfDecode : Prop :=
  ∀ (w : Word) (i : Instr), decode w = .command i → encode i = w

/-! ### Whole-machine invariants -/

/-- R48, R49: every step, of any kind, keeps the invariants; the canonical form of the two buffers
and the range of `IN_MAX` are the model's own clauses (assumption logs 1 and 9). -/
def Obligations.EveryStepKeepsInvariants : Prop :=
  ∀ s t : State, Inv s → step s = .next t → Inv t

/-- R233: after reset the invariants hold. -/
def Obligations.ResetMeetsInvariants : Prop :=
  Inv State.reset ∧ ∀ s, ParamLegal s → Inv (resetBlock s)

/-- From a state that meets the invariants a step answers a next state, except for an
`EngineRespond` that R166 does not enable, which is refused (the model's choice, assumption
log 6). No fault is ever reached: R119's "always within `KEY_BUF`". -/
def Obligations.EnabledStepsComplete : Prop :=
  ∀ s : State, Inv s →
    (InputEnabled s → ∃ t, step s = .next t) ∧
    (¬ InputEnabled s → step s = .refused .responseNotEnabled)

/-- R20, R110 and the "State written" lines of R116 to R190: what each command leaves unchanged. -/
def Obligations.CommandsFrame : Prop :=
  ∀ (i : Instr) (s t : State), exec i s = .next t →
    (t.inMax = s.inMax ∧ t.overrun = s.overrun ∧ t.inLen = s.inLen ∧ t.timeMs = s.timeMs ∧
      t.timeStep = s.timeStep ∧ t.timeOffset = s.timeOffset ∧ t.digest = s.digest ∧
      t.inbox = s.inbox ∧ t.readData = s.readData) ∧
    (∀ a, Memory.read t.inBuf a = Memory.read s.inBuf a) ∧
    ((∀ c, i ≠ .decLookup c) → t.lookupValue = s.lookupValue ∧ t.lookupValid = s.lookupValid) ∧
    (i ≠ .ctrDerive → i ≠ .generate → t.ctr = s.ctr) ∧
    (i ≠ .ctrEncode → i ≠ .generate → t.msg = s.msg) ∧
    (i ≠ .truncate → t.offset = s.offset ∧ t.trunc = s.trunc) ∧
    (i ≠ .mod1m → t.codeBin = s.codeBin) ∧
    (i ≠ .format → t.codeAscii = s.codeAscii) ∧
    (i ≠ .hmacStart → i ≠ .generate → t.pend = s.pend) ∧
    (i ≠ .decClear → (∀ c, i ≠ .decPush c) → i ≠ .decString → i ≠ .generate →
      t.dec.nchars = s.dec.nchars ∧ t.dec.bits = s.dec.bits ∧ t.dec.acc = s.dec.acc ∧
      t.dec.keyLen = s.dec.keyLen ∧
      ∀ a, Memory.read t.dec.keyBuf a = Memory.read s.dec.keyBuf a) ∧
    (∀ c, i = .decPush c → ∀ a, a ≠ s.dec.keyLen.toNat →
      Memory.read t.dec.keyBuf a = Memory.read s.dec.keyBuf a) ∧
    (t.errCode ≠ .invalidCharacter → t.errChar = s.errChar ∧ t.errPos = s.errPos)

/-! ### Errors -/

/-- R203: what raising an error writes; and a command that raises one changes nothing but the error
fields, `ERR_CHAR` and `ERR_POS` only for `INVALID_CHARACTER`. -/
def Obligations.FailedCommandHasNoOtherEffect : Prop :=
  (∀ (char : Byte) (pos : BitVec 16) (s : State),
    raise (.invalidCharacter char pos) s =
      { s with errCode := .invalidCharacter, errChar := char, errPos := pos } ∧
    raise .invalidConfiguration s = { s with errCode := .invalidConfiguration } ∧
    raise .illegalCommand s = { s with errCode := .illegalCommand } ∧
    raise .lengthError s = { s with errCode := .lengthError }) ∧
  (∀ (i : Instr) (s t : State), exec i s = .next t → t.errCode ≠ .ok →
    (∃ e, t = raise e s) ∧
    t = { s with errCode := t.errCode, errChar := t.errChar, errPos := t.errPos } ∧
    (t.errCode ≠ .invalidCharacter → t.errChar = s.errChar ∧ t.errPos = s.errPos))

/-- R210: which command raises which error. -/
def Obligations.WhichCommandRaisesWhichError : Prop :=
  (∀ (i : Instr) (s t : State), exec i s = .next t →
    t.errCode ≠ .illegalCommand ∧
    (t.errCode = .invalidConfiguration → i = .ctrDerive ∨ i = .generate) ∧
    (t.errCode = .lengthError → (∃ c, i = .decPush c) ∨ i = .decString ∨ i = .generate) ∧
    (t.errCode = .invalidCharacter → (∃ c, i = .decPush c) ∨ i = .decString ∨ i = .generate)) ∧
  (∀ (w : Word) (s t : State), runCommand w s = .next t →
    (t.errCode = .illegalCommand ↔ wellFormedWord w = false))

/-- R200, R208: every executed command writes `ERR_CODE`, whatever it held: two states that differ
only in `ERR_CODE` are the same after the same command word. -/
def Obligations.EveryCommandWritesErrCode : Prop :=
  ∀ (w : Word) (s : State) (e : ErrCode), runCommand w { s with errCode := e } = runCommand w s

/-! ### The Base32 decoder -/

/-- R116: `DEC_CLEAR`. -/
def Obligations.DecClearResult : Prop :=
  decode 0x00000001 = .command .decClear ∧
  ∀ s : State, ∃ t, exec .decClear s = .next t ∧
    t = { s with dec := t.dec, errCode := .ok } ∧
    t.dec.nchars = 0 ∧ t.dec.bits = 0 ∧ t.dec.acc = 0 ∧ t.dec.keyLen = 0 ∧
    (∀ i, Memory.read t.dec.keyBuf i = 0) ∧ exec .decClear t = .next t

/-- R113, R117: `DEC_LOOKUP` (word `0x0000cc02`) gives every byte the value of R113's table,
`VALID` = 0 and `VALUE` = 0 for the rest, never an error; exactly 58 bytes are valid. -/
def Obligations.DecLookupResult : Prop :=
  (∀ c : Byte, decode (BitVec.ofNat 32 (c.toNat * 256 + 2)) = .command (.decLookup c)) ∧
  (∀ (c : Byte) (s : State), ∃ t, exec (.decLookup c) s = .next t ∧
    t = { s with lookupValid := t.lookupValid, lookupValue := t.lookupValue, errCode := .ok } ∧
    t.lookupValid = (tableValue c.toNat).isSome ∧
    t.lookupValue.toNat = (tableValue c.toNat).getD 0) ∧
  ((List.range 256).filter fun c => (tableValue c).isSome).length = 58

/-- R114: the repacking step. -/
def Obligations.RepackStepKeepsEveryBit : Prop :=
  ∀ acc bits v : Nat, bits ≤ 7 → acc < 2 ^ bits → v ≤ 31 →
    (repack acc bits v).bits ≤ 7 ∧ (repack acc bits v).acc < 2 ^ (repack acc bits v).bits ∧
    (bits + 5 < 8 → (repack acc bits v).out = none ∧ (repack acc bits v).bits = bits + 5 ∧
      (repack acc bits v).acc = acc * 32 + v) ∧
    (8 ≤ bits + 5 → ∃ b, (repack acc bits v).out = some b ∧ b < 256 ∧
      (repack acc bits v).bits = bits + 5 - 8 ∧
      b * 2 ^ (repack acc bits v).bits + (repack acc bits v).acc = acc * 32 + v)

/-- R119: `DEC_PUSH`: the length check first, then the character, then one repacking step. -/
def Obligations.DecPushResult : Prop :=
  (∀ c : Byte, decode (BitVec.ofNat 32 (c.toNat * 256 + 3)) = .command (.decPush c)) ∧
  ∀ (c : Byte) (s : State), Inv s →
    (s.dec.nchars.toNat = s.inMax →
      exec (.decPush c) s = .next { s with errCode := .lengthError }) ∧
    (s.dec.nchars.toNat ≠ s.inMax → b32val (norm c) = none →
      exec (.decPush c) s = .next
        { s with errCode := .invalidCharacter, errChar := c, errPos := s.dec.nchars }) ∧
    (s.dec.nchars.toNat ≠ s.inMax → (b32val (norm c)).isSome = true →
      ∃ t, exec (.decPush c) s = .next t ∧ t = { s with dec := t.dec, errCode := .ok } ∧
        t.dec.nchars.toNat = s.dec.nchars.toNat + 1 ∧
        t.dec.bits.toNat = (s.dec.bits.toNat + 5) % 8 ∧
        (s.dec.bits.toNat + 5 < 8 →
          t.dec.acc.toNat = s.dec.acc.toNat * 32 + symbolOf c ∧ t.dec.keyLen = s.dec.keyLen ∧
          ∀ i, Memory.read t.dec.keyBuf i = Memory.read s.dec.keyBuf i) ∧
        (8 ≤ s.dec.bits.toNat + 5 →
          (Memory.read t.dec.keyBuf s.dec.keyLen.toNat).toNat * 2 ^ t.dec.bits.toNat +
            t.dec.acc.toNat = s.dec.acc.toNat * 32 + symbolOf c ∧
          t.dec.acc.toNat < 2 ^ t.dec.bits.toNat ∧
          t.dec.keyLen.toNat = s.dec.keyLen.toNat + 1 ∧ s.dec.keyLen.toNat < keyMax s ∧
          ∀ i, i ≠ s.dec.keyLen.toNat →
            Memory.read t.dec.keyBuf i = Memory.read s.dec.keyBuf i))

/-- R121: exactly the suffix of `'='` is stripped, and stripping before or after `NORM` is the
same. -/
def Obligations.PaddingStripRemovesExactlyTheSuffix : Prop :=
  (∀ (buf : Memory) (n : Nat),
    strippedLen buf n ≤ n ∧
    (∀ j, strippedLen buf n ≤ j → j < n → Memory.read buf j = 0x3D) ∧
    (0 < strippedLen buf n → Memory.read buf (strippedLen buf n - 1) ≠ 0x3D)) ∧
  (∀ c : Byte, norm c = 0x3D ↔ c = 0x3D)

/-- R115, R118, R120: `DEC_STRING` on a token of valid characters: the symbols, read as one number in
base 32, are the key bytes, read as one number in base 256, followed by the residual bits. -/
def Obligations.DecStringResult : Prop :=
  ∀ s : State, s.inLen.toNat ≤ s.inMax → AllValid (token s) →
    ∃ t, exec .decString s = .next t ∧ t = { s with dec := t.dec, errCode := .ok } ∧
      t.dec.nchars.toNat = (token s).length ∧
      t.dec.bits.toNat = 5 * (token s).length % 8 ∧
      t.dec.keyLen.toNat = 5 * (token s).length / 8 ∧
      t.dec.acc.toNat < 2 ^ t.dec.bits.toNat ∧
      beValue 32 ((token s).map symbolOf) =
        beValue 256 ((hmacKey t).map BitVec.toNat) * 2 ^ t.dec.bits.toNat + t.dec.acc.toNat ∧
      ∀ i, t.dec.keyLen.toNat ≤ i → Memory.read t.dec.keyBuf i = 0

/-- R206, R209 part 4, R120: `DEC_STRING` reports the length first, then the lowest position whose
normalised character is not in the alphabet, and commits nothing. -/
def Obligations.DecStringErrors : Prop :=
  ∀ s : State,
    (s.inMax < s.inLen.toNat → exec .decString s = .next { s with errCode := .lengthError }) ∧
    (s.inLen.toNat ≤ s.inMax → ∀ i, i < strippedLen s.inBuf s.inLen.toNat →
      (∀ j, j < i → (b32val (norm (Memory.read s.inBuf j))).isSome = true) →
      b32val (norm (Memory.read s.inBuf i)) = none →
        exec .decString s = .next
          { s with errCode := .invalidCharacter, errChar := Memory.read s.inBuf i,
                   errPos := BitVec.ofNat 16 i })

/-- R122: a `DEC_STRING` that succeeds leaves the state `DEC_CLEAR` and one `DEC_PUSH` per character
leave; one that fails leaves the decoder unchanged, where the pushes would leave the characters
before the failing one pushed. -/
def Obligations.DecStringEqualsPushes : Prop :=
  ∀ s c t : State, exec .decClear s = .next c → exec .decString s = .next t →
    (t.errCode = .ok → pushAll (token s) c = .next t) ∧
    (t.errCode ≠ .ok → t.dec = s.dec) ∧
    (t.errCode = .invalidCharacter → ∃ u w : State,
      pushAll ((token s).take t.errPos.toNat) c = .next u ∧ u.dec.nchars = t.errPos ∧
      exec (.decPush t.errChar) u = .next w ∧ w.dec = u.dec ∧ w.errCode = .invalidCharacter ∧
      w.errPos = t.errPos)

/-- R123: decoding the standard padded Base32 encoding of a byte sequence gives it back. -/
def Obligations.Base32RoundTrip : Prop :=
  ∀ (s : State) (b : List Byte), s.inLen.toNat ≤ s.inMax →
    Memory.bytes s.inBuf s.inLen.toNat = b32Encode b →
      ∃ t, exec .decString s = .next t ∧ t.errCode = .ok ∧ hmacKey t = b

/-! ### The counter -/

/-- R141: `CTR_DERIVE`: the floor of `T / (1000 * step)`, as the signed reading of `CTR`. -/
def Obligations.CtrDeriveResult : Prop :=
  decode 0x00000010 = .command .ctrDerive ∧
  ∀ s : State,
    (s.timeStep.toInt ≤ 0 →
      exec .ctrDerive s = .next { s with errCode := .invalidConfiguration }) ∧
    (0 < s.timeStep.toInt → ∃ t, exec .ctrDerive s = .next t ∧
      t = { s with ctr := t.ctr, errCode := .ok } ∧
      1000 * s.timeStep.toInt * t.ctr.toInt ≤ timeT s ∧
      timeT s < 1000 * s.timeStep.toInt * (t.ctr.toInt + 1))

/-- R143: the range of the intermediate and of the counter, and `s64(CTR) = c`. -/
def Obligations.CounterAlwaysFits : Prop :=
  ∀ s t : State, 0 < s.timeStep.toInt → exec .ctrDerive s = .next t →
    |s.timeMs.toInt| ≤ 2 ^ 63 ∧ |1000 * s.timeOffset.toInt| ≤ 1000 * 2 ^ 31 ∧
    -2 ^ 64 ≤ timeT s ∧ timeT s < 2 ^ 64 ∧
    -2 ^ 54 < counterOf s ∧ counterOf s < 2 ^ 54 ∧
    t.ctr.toInt = counterOf s ∧ (t.ctr.toNat : Int) = counterOf s % 2 ^ 64

/-- R142: the three formulas of the source give the counter that `CTR_DERIVE` computes. -/
def Obligations.CounterFormulasAgree : Prop :=
  ∀ s : State, 1 ≤ s.timeStep.toInt →
    counterOf s = ⌊(⌊(s.timeMs.toInt : ℚ) / 1000⌋ + s.timeOffset.toInt : ℚ) / s.timeStep.toInt⌋ ∧
    counterOf s = ⌊((s.timeMs.toInt : ℚ) + 1000 * s.timeOffset.toInt) / s.timeStep.toInt / 1000⌋ ∧
    counterOf s =
      ⌊(⌊((s.timeMs.toInt : ℚ) + 1000 * s.timeOffset.toInt) / s.timeStep.toInt⌋ : ℚ) / 1000⌋

/-- R144: the counter laws, for one configuration and two times. -/
def Obligations.CounterLaws : Prop :=
  ∀ s₁ s₂ t₁ t₂ : State, s₁.timeStep = s₂.timeStep → s₁.timeOffset = s₂.timeOffset →
    1 ≤ s₁.timeStep.toInt →
    exec .ctrDerive s₁ = .next t₁ → exec .ctrDerive s₂ = .next t₂ →
    (s₁.timeMs.toInt ≤ s₂.timeMs.toInt → t₁.ctr.toInt ≤ t₂.ctr.toInt) ∧
    (∀ k : Int, 1000 * s₁.timeStep.toInt * k ≤ timeT s₁ →
      timeT s₁ < 1000 * s₁.timeStep.toInt * (k + 1) →
      1000 * s₁.timeStep.toInt * k ≤ timeT s₂ →
      timeT s₂ < 1000 * s₁.timeStep.toInt * (k + 1) → t₁.ctr = t₂.ctr) ∧
    (s₂.timeMs.toInt = s₁.timeMs.toInt + 1 →
      t₂.ctr.toInt =
        if (1000 * s₁.timeStep.toInt) ∣ timeT s₂ then t₁.ctr.toInt + 1 else t₁.ctr.toInt) ∧
    (s₂.timeMs.toInt = s₁.timeMs.toInt + 1000 * s₁.timeStep.toInt →
      t₂.ctr.toInt = t₁.ctr.toInt + 1)

/-- R145: `CTR_ENCODE`: byte k of the message is bits 63-8k : 56-8k of the counter. -/
def Obligations.CtrEncodeResult : Prop :=
  decode 0x00000011 = .command .ctrEncode ∧
  ∀ s : State, ∃ t, exec .ctrEncode s = .next t ∧ t = { s with msg := t.msg, errCode := .ok } ∧
    (∀ (k : Nat) (hk : k < 8), t.msg[k].toNat = s.ctr.toNat / 2 ^ (56 - 8 * k) % 256) ∧
    beValue 256 (t.msg.toList.map BitVec.toNat) = s.ctr.toNat

/-- R69, R70, R146: the halves of `CTR` are written separately, and `CTR_ENCODE` then encodes the
pair, most significant half first. -/
def Obligations.HostWrittenCounterIsEncoded : Prop :=
  ∀ (s : State) (lo hi : Word), s.pend = .none →
    ∃ t₁ t₂ t₃ : State, hostWrite 0x014 lo s = .next t₁ ∧ hostWrite 0x015 hi t₁ = .next t₂ ∧
      exec .ctrEncode t₂ = .next t₃ ∧
      beValue 256 (t₃.msg.toList.map BitVec.toNat) = hi.toNat * 2 ^ 32 + lo.toNat

/-! ### The HMAC request, truncation, reduction and formatting -/

/-- R161: `HMAC_START`: the first phase, and its second phase at the next engine response. -/
def Obligations.HmacStartResult : Prop :=
  decode 0x00000012 = .command .hmacStart ∧
  ∀ s : State,
    exec .hmacStart s = .next { s with pend := .hmac, errCode := .ok } ∧
    engineRespond { s with pend := .hmac, errCode := .ok } = .next
      { s with pend := .none, errCode := .ok,
               digest := Config.hmacFn (Memory.bytes s.dec.keyBuf s.dec.keyLen.toNat) s.msg }

/-- R164, R166: the response `d` to an `HMAC_START` request writes the digest and clears `PEND`, and
nothing else; the engine's own response is `HMAC_FN` of the key and the message, and it is what a
step that takes `EngineRespond` does. -/
def Obligations.EngineRespondToHmac : Prop :=
  ∀ s : State, s.pend = .hmac →
    (∀ d : Digest, engineResponse d s = .next { s with digest := d, pend := .none }) ∧
    engineRespond s = .next
      { s with digest := Config.hmacFn (Memory.bytes s.dec.keyBuf s.dec.keyLen.toNat) s.msg,
               pend := .none } ∧
    ∀ rest : List Input, s.inbox = .engineRespond :: rest →
      step s = .next
        { s with inbox := rest, pend := .none,
                 digest := Config.hmacFn (Memory.bytes s.dec.keyBuf s.dec.keyLen.toNat) s.msg }

/-- R169, R170: `TRUNCATE`. -/
def Obligations.TruncateResult : Prop :=
  decode 0x00000013 = .command .truncate ∧
  ∀ s : State, ∃ t, exec .truncate s = .next t ∧
    t = { s with offset := t.offset, trunc := t.trunc, errCode := .ok } ∧
    t.offset.toNat = s.digest[19].toNat % 16 ∧
    ∃ (h : t.offset.toNat + 3 ≤ 18),
      t.trunc.toNat = beValue 256
        [s.digest[t.offset.toNat].toNat, s.digest[t.offset.toNat + 1].toNat,
          s.digest[t.offset.toNat + 2].toNat, s.digest[t.offset.toNat + 3].toNat] % 2 ^ 31

/-- R171: `MOD1M`. -/
def Obligations.Mod1mResult : Prop :=
  decode 0x00000014 = .command .mod1m ∧
  ∀ s : State, ∃ t, exec .mod1m s = .next t ∧ t = { s with codeBin := t.codeBin, errCode := .ok } ∧
    t.codeBin.toNat = s.trunc.toNat % 1000000 ∧ t.codeBin.toNat ≤ 999999

/-- R172, R173: `FORMAT`: six ASCII digits, which are `CODE_BIN` in decimal. -/
def Obligations.FormatResult : Prop :=
  decode 0x00000015 = .command .format ∧
  ∀ s : State, ∃ t, exec .format s = .next t ∧
    t = { s with codeAscii := t.codeAscii, errCode := .ok } ∧
    (∀ (k : Nat) (hk : k < 6),
      t.codeAscii[k].toNat = 0x30 + s.codeBin.toNat / 10 ^ (5 - k) % 10 ∧
      0x30 ≤ t.codeAscii[k].toNat ∧ t.codeAscii[k].toNat ≤ 0x39) ∧
    (s.codeBin.toNat ≤ 999999 →
      beValue 10 (t.codeAscii.toList.map fun b => b.toNat - 0x30) = s.codeBin.toNat)

/-! ### GENERATE -/

/-- R190: `GENERATE`, first phase, when no check fails: the counter, its message, the decode that
`DEC_STRING` does, and the request. -/
def Obligations.GenerateFirstPhase : Prop :=
  ∀ s : State, 0 < s.timeStep.toInt → s.inLen.toNat ≤ s.inMax → AllValid (token s) →
    ∃ t d : State, exec .generate s = .next t ∧ exec .decString s = .next d ∧
      t = { s with ctr := t.ctr, msg := t.msg, dec := d.dec, pend := .gen, errCode := .ok } ∧
      1000 * s.timeStep.toInt * t.ctr.toInt ≤ timeT s ∧
      timeT s < 1000 * s.timeStep.toInt * (t.ctr.toInt + 1) ∧
      beValue 256 (t.msg.toList.map BitVec.toNat) = t.ctr.toNat ∧
      t.dec.keyLen.toNat = 5 * (token s).length / 8

/-- R191, R209 part 2: `GENERATE` reports the configuration first, then the length, then the lowest
invalid position, and commits nothing. -/
def Obligations.GenerateErrorPriority : Prop :=
  ∀ s : State,
    (s.timeStep.toInt ≤ 0 →
      exec .generate s = .next { s with errCode := .invalidConfiguration }) ∧
    (0 < s.timeStep.toInt → s.inMax < s.inLen.toNat →
      exec .generate s = .next { s with errCode := .lengthError }) ∧
    (0 < s.timeStep.toInt → s.inLen.toNat ≤ s.inMax →
      ∀ i, i < strippedLen s.inBuf s.inLen.toNat →
      (∀ j, j < i → (b32val (norm (Memory.read s.inBuf j))).isSome = true) →
      b32val (norm (Memory.read s.inBuf i)) = none →
        exec .generate s = .next
          { s with errCode := .invalidCharacter, errChar := Memory.read s.inBuf i,
                   errPos := BitVec.ofNat 16 i })

/-- R192, R166: `GENERATE`, second phase: the digest, its truncation, the remainder and the six
digits in one step; `ERR_CODE` keeps its value. The engine's own response is `HMAC_FN` of the key and
the message, and it is what a step that takes `EngineRespond` does. -/
def Obligations.GenerateSecondPhase : Prop :=
  (∀ (d : Digest) (s : State), s.pend = .gen →
    ∃ t, engineResponse d s = .next t ∧
      t = { s with digest := d, offset := t.offset, trunc := t.trunc, codeBin := t.codeBin,
                   codeAscii := t.codeAscii, pend := .none } ∧
      t.offset.toNat = d[19].toNat % 16 ∧
      (∃ (h : t.offset.toNat + 3 ≤ 18),
        t.trunc.toNat = beValue 256
          [d[t.offset.toNat].toNat, d[t.offset.toNat + 1].toNat,
            d[t.offset.toNat + 2].toNat, d[t.offset.toNat + 3].toNat] % 2 ^ 31) ∧
      t.codeBin.toNat = t.trunc.toNat % 1000000 ∧
      beValue 10 (t.codeAscii.toList.map fun b => b.toNat - 0x30) = t.codeBin.toNat ∧
      ∀ (k : Nat) (hk : k < 6), 0x30 ≤ t.codeAscii[k].toNat ∧ t.codeAscii[k].toNat ≤ 0x39) ∧
  ∀ s : State, s.pend = .gen →
    engineRespond s =
      engineResponse (Config.hmacFn (Memory.bytes s.dec.keyBuf s.dec.keyLen.toNat) s.msg) s ∧
    ∀ rest : List Input, s.inbox = .engineRespond :: rest →
      step s = engineResponse
        (Config.hmacFn (Memory.bytes s.dec.keyBuf s.dec.keyLen.toNat) s.msg)
        { s with inbox := rest }

/-- R193: `GENERATE` is equivalent to the staged commands with the same engine response; while busy
they differ in `PEND` only; on error `GENERATE` commits nothing and the sequence keeps the effects
of the commands before the failing one. -/
def Obligations.GenerateEqualsStagedCommands : Prop :=
  ∀ s g : State, exec .generate s = .next g →
    (g.errCode = .ok → ∀ d : Digest, ∃ a b c h r u w z : State,
      exec .ctrDerive s = .next a ∧ exec .ctrEncode a = .next b ∧ exec .decString b = .next c ∧
      exec .hmacStart c = .next h ∧ h = { g with pend := .hmac } ∧ g.pend = .gen ∧
      engineResponse d h = .next r ∧ exec .truncate r = .next u ∧ exec .mod1m u = .next w ∧
      exec .format w = .next z ∧ engineResponse d g = .next z ∧ z.errCode = .ok) ∧
    (g.errCode ≠ .ok →
      g = { s with errCode := g.errCode, errChar := g.errChar, errPos := g.errPos } ∧
      (0 < s.timeStep.toInt → ∃ a b c : State,
        exec .ctrDerive s = .next a ∧ exec .ctrEncode a = .next b ∧ exec .decString b = .next c ∧
        c = { b with errCode := g.errCode, errChar := g.errChar, errPos := g.errPos }))

/-- R194: two `GENERATE` runs from states with the same token, time and configuration give the same
counter, message, key, digest and code, for any engine function. -/
def Obligations.GenerateIsDeterministic : Prop :=
  ∀ s₁ s₂ g₁ g₂ : State, SameInputs s₁ s₂ →
    exec .generate s₁ = .next g₁ → exec .generate s₂ = .next g₂ → g₁.errCode = .ok →
    g₂.errCode = .ok ∧ g₁.ctr = g₂.ctr ∧ g₁.msg = g₂.msg ∧ hmacKey g₁ = hmacKey g₂ ∧
    ∃ t₁ t₂ : State, engineRespond g₁ = .next t₁ ∧ engineRespond g₂ = .next t₂ ∧
      t₁.digest = t₂.digest ∧ t₁.codeAscii = t₂.codeAscii

/-- R195: the stability window: the same token and configuration and times in one window give the
same code; one step later the counter is one more. -/
def Obligations.GenerateIsStableInItsWindow : Prop :=
  ∀ s₁ s₂ g₁ g₂ : State, SameTokenAndConfig s₁ s₂ →
    exec .generate s₁ = .next g₁ → exec .generate s₂ = .next g₂ → g₁.errCode = .ok →
    (∀ k : Int, 1000 * s₁.timeStep.toInt * k ≤ timeT s₁ →
      timeT s₁ < 1000 * s₁.timeStep.toInt * (k + 1) →
      1000 * s₁.timeStep.toInt * k ≤ timeT s₂ →
      timeT s₂ < 1000 * s₁.timeStep.toInt * (k + 1) →
      ∃ t₁ t₂ : State, engineRespond g₁ = .next t₁ ∧ engineRespond g₂ = .next t₂ ∧
        t₁.codeAscii = t₂.codeAscii) ∧
    (s₂.timeMs.toInt = s₁.timeMs.toInt + 1000 * s₁.timeStep.toInt →
      g₂.ctr.toInt = g₁.ctr.toInt + 1)

/-! ### The host bus -/

/-- R25: the word `STATUS` reads as, and what a step that takes a write to it does, busy or not. -/
def Obligations.StatusLayoutAndWrite : Prop :=
  (∀ s : State,
    (busRead s 0x001).toNat =
      (if s.pend = .none then 0 else 1) + (if s.overrun then 2 else 0) +
      (match s.pend with | .none => 0 | .hmac => 4 | .gen => 8) +
      256 * (match s.errCode with
        | .ok => 0 | .invalidCharacter => 1 | .invalidConfiguration => 2 | .illegalCommand => 3
        | .lengthError => 4)) ∧
  (∀ (s : State) (v : Word),
    hostWrite 0x001 v s = .next { s with overrun := s.overrun && !v.getLsbD 1 }) ∧
  (∀ (s : State) (v : Word) (rest : List Input), s.inbox = .hostWrite 0x001 v :: rest →
    step s = .next { s with inbox := rest, overrun := s.overrun && !v.getLsbD 1 }) ∧
  busRead State.reset 0x001 = 0

/-- R73: while busy every host write but one to `STATUS` is dropped and sets `OVERRUN`, at every
address; a write to `STATUS` and a read are never dropped. -/
def Obligations.BusyDropsWrites : Prop :=
  ∀ (s : State) (rest : List Input), s.pend ≠ .none →
    (∀ (a : Addr) (v : Word), a ≠ 0x001 → s.inbox = .hostWrite a v :: rest →
      step s = .next { s with inbox := rest, overrun := true }) ∧
    (∀ v : Word, s.inbox = .hostWrite 0x001 v :: rest →
      step s = .next { s with inbox := rest, overrun := s.overrun && !v.getLsbD 1 }) ∧
    (∀ a : Addr, s.inbox = .hostRead a :: rest →
      step s = .next { s with inbox := rest, readData := some (busRead s a) })

/-- R74, R75, R163, R167: through any number of steps none of which is the engine's response or a
reset, a pending request stays pending and nothing but `OVERRUN` (and the host's own `readData`)
changes: the key, the message and every result are those at issue. -/
def Obligations.PendingRequestFreezesTheBlock : Prop :=
  ∀ (k : Nat) (s t : State), s.pend ≠ .none →
    (∀ x ∈ s.inbox.take k, x ≠ .engineRespond ∧ x ≠ .reset) →
    Host.Core.run Sys2Proof.core k s = .next t →
      t = { s with inbox := s.inbox.drop k, overrun := t.overrun, readData := t.readData }

/-- R47: `PEND` is set only by `HMAC_START` (to HMAC) and `GENERATE` (to GEN), and returns to NONE
only by the engine's response and by reset. -/
def Obligations.PendChangesOnlyAsStated : Prop :=
  ∀ s t : State, step s = .next t → t.pend ≠ s.pend →
    (t.pend = .hmac → s.pend = .none ∧
      ∃ rest, s.inbox = .hostWrite cmdAddr (encode .hmacStart) :: rest) ∧
    (t.pend = .gen → s.pend = .none ∧
      ∃ rest, s.inbox = .hostWrite cmdAddr (encode .generate) :: rest) ∧
    (t.pend = .none → ∃ rest, s.inbox = .engineRespond :: rest ∨ s.inbox = .reset :: rest)

/-- R207: `OVERRUN` is set exactly by a host write dropped while busy, and cleared exactly by a write
of 1 to bit 1 of `STATUS` or by reset; a dropped `CMD` write leaves `ERR_CODE` as it was. -/
def Obligations.OverrunIsSticky : Prop :=
  ∀ s t : State, step s = .next t →
    (s.overrun = true → (t.overrun = false ↔
      (∃ v rest, s.inbox = .hostWrite 0x001 v :: rest ∧ v.getLsbD 1 = true) ∨
      ∃ rest, s.inbox = .reset :: rest)) ∧
    (s.overrun = false → (t.overrun = true ↔
      s.pend ≠ .none ∧ ∃ a v rest, s.inbox = .hostWrite a v :: rest ∧ a ≠ 0x001)) ∧
    (∀ w rest, s.inbox = .hostWrite 0x000 w :: rest → s.pend ≠ .none → t.errCode = s.errCode)

/-- R65: a read changes no state of the block, returns the same word when repeated, and `CMD` reads
0. -/
def Obligations.ReadsHaveNoSideEffects : Prop :=
  ∀ (s : State) (a : Addr) (rest : List Input), s.inbox = .hostRead a :: rest →
    (∃ t, step s = .next t ∧ t = { s with inbox := rest, readData := t.readData } ∧
      t.readData = some (busRead s a) ∧ ∀ b, busRead t b = busRead s b) ∧
    busRead s 0x000 = 0

/-- R62, R64: an unmapped address reads 0, and a step that takes a write to it (not busy) changes
nothing. -/
def Obligations.UnmappedAddressesAreInert : Prop :=
  ∀ (s : State) (a : Addr), ParamLegal s → UnmappedAddress s.inMax a.toNat →
    busRead s a = 0 ∧
    (s.pend = .none → ∀ v, hostWrite a v s = .next s ∧
      ∀ rest, s.inbox = .hostWrite a v :: rest → step s = .next { s with inbox := rest })

/-- R23, R62, R66, R67, R72: a step that takes an accepted write to a RW register makes it read as
the written field bits and changes no other address; one that takes a write to any other register
but `CMD` and `STATUS` changes nothing. The model's own fields only lose the input taken. -/
def Obligations.BusWriteThenRead : Prop :=
  ∀ (s : State) (a : Addr) (v : Word) (rest : List Input),
    Inv s → s.pend = .none → a ≠ 0x000 → a ≠ 0x001 → s.inbox = .hostWrite a v :: rest →
    ∃ t, step s = .next t ∧ hostWrite a v { s with inbox := rest } = .next t ∧
      t.inbox = rest ∧ t.readData = s.readData ∧
      (∀ m, storedBits s.inMax a.toNat = some m → busRead t a = v &&& m) ∧
      (storedBits s.inMax a.toNat = none → t = { s with inbox := rest }) ∧
      ∀ b, b ≠ a → busRead t b = busRead s b

/-- R62, R67, R68: where the byte buffers stand, one byte a word. -/
def Obligations.BuffersReadAtTheirAddresses : Prop :=
  ∀ s : State, ParamLegal s →
    (∀ i, i < s.inMax →
      (busRead s (BitVec.ofNat 12 (0x400 + i))).toNat = (Memory.read s.inBuf i).toNat) ∧
    (∀ i, i < keyMax s →
      (busRead s (BitVec.ofNat 12 (0x800 + i))).toNat = (Memory.read s.dec.keyBuf i).toNat) ∧
    (∀ (k : Nat) (hk : k < 8),
      (busRead s (BitVec.ofNat 12 (0x018 + k))).toNat = s.msg[k].toNat) ∧
    (∀ (k : Nat) (hk : k < 20),
      (busRead s (BitVec.ofNat 12 (0x020 + k))).toNat = s.digest[k].toNat) ∧
    (∀ (k : Nat) (hk : k < 6),
      (busRead s (BitVec.ofNat 12 (0x038 + k))).toNat = s.codeAscii[k].toNat)

/-- R29: `PARAM` reads as `IN_MAX` and `KEY_MAX`, and no step changes it, reset included. -/
def Obligations.ParamIsConstant : Prop :=
  (∀ s : State, ParamLegal s →
    (busRead s 0x005).toNat = s.inMax + 65536 * (s.inMax * 5 / 8)) ∧
  (∀ s t : State, step s = .next t → busRead t 0x005 = busRead s 0x005)

/-! ### Reset -/

/-- R231, R232: a reset, at any time, leaves every address but `PARAM` reading 0 and
`TIME_STEP` reading 30, no request pending, and no response of the engine reaches the block's state. -/
def Obligations.ResetValues : Prop :=
  ∀ (s : State) (rest : List Input), s.inbox = .reset :: rest →
    ∃ t, step s = .next t ∧ t.pend = .none ∧ t.inbox = rest ∧
      (∀ a : Addr, busRead t a =
        if a = 0x005 then busRead s a else if a = 0x012 then 30 else 0) ∧
      ∀ u, engineRespond t ≠ .next u

/-! ### Each step, and each one-word register -/

/-- R13, R72: what a step does with the next input, one at a time: a host write is `hostWrite`, an
engine response `engineRespond`, each of the state with the input taken off. The schedule is the
model's `inbox` (assumption log 3), and with none left the state stands. -/
def Obligations.StepTakesTheNextInput : Prop :=
  ∀ (s : State) (rest : List Input),
    (∀ a v, s.inbox = .hostWrite a v :: rest → step s = hostWrite a v { s with inbox := rest }) ∧
    (s.inbox = .engineRespond :: rest → step s = engineRespond { s with inbox := rest }) ∧
    (s.inbox = [] → step s = .next s)

/-- R62 with R26-R28, R30-R38, R41-R43 and R69: the word each one-word register reads as at its
address; the halves of `TIME_MS` and `CTR` are bits [31:0] and, one address higher, [63:32]. -/
def Obligations.RegistersReadAtTheirAddresses : Prop :=
  ∀ s : State,
    (busRead s 0x002).toNat = s.errChar.toNat ∧ (busRead s 0x003).toNat = s.errPos.toNat ∧
    (busRead s 0x004).toNat = 256 * s.lookupValid.toNat + s.lookupValue.toNat ∧
    (busRead s 0x008).toNat = s.inLen.toNat ∧ (busRead s 0x009).toNat = s.dec.nchars.toNat ∧
    (busRead s 0x00A).toNat = s.dec.bits.toNat ∧ (busRead s 0x00B).toNat = s.dec.acc.toNat ∧
    (busRead s 0x00C).toNat = s.dec.keyLen.toNat ∧
    (busRead s 0x010).toNat = s.timeMs.toNat % 2 ^ 32 ∧
    (busRead s 0x011).toNat = s.timeMs.toNat / 2 ^ 32 ∧
    (busRead s 0x012).toNat = s.timeStep.toNat ∧ (busRead s 0x013).toNat = s.timeOffset.toNat ∧
    (busRead s 0x014).toNat = s.ctr.toNat % 2 ^ 32 ∧
    (busRead s 0x015).toNat = s.ctr.toNat / 2 ^ 32 ∧
    (busRead s 0x034).toNat = s.offset.toNat ∧ (busRead s 0x035).toNat = s.trunc.toNat ∧
    (busRead s 0x036).toNat = s.codeBin.toNat
end

