-- ==== Sys2Proof/Laws/Memory.lean ====
section
/-! SUPPORT. The laws of a byte buffer: read after write, the canonical form kept, and equal reads
mean equal buffers. -/

namespace Sys2Proof.Machine

@[simp] theorem Memory.read_nil (i : Nat) : Memory.read [] i = 0 := rfl

@[simp] theorem Memory.wf_nil : Memory.wf [] = true := rfl

theorem Memory.wfFrom_mono {lo lo' : Nat} (h : lo' ≤ lo) :
    ∀ {m : Memory}, Memory.wfFrom lo m = true → Memory.wfFrom lo' m = true
  | [], _ => rfl
  | (k, v) :: rest, hm => by
    simp only [Memory.wfFrom, Bool.and_eq_true, decide_eq_true_eq] at hm ⊢
    exact ⟨⟨le_trans h hm.1.1, hm.1.2⟩, hm.2⟩

/-- Below its lower bound a canonical list reads as unlisted. -/
theorem Memory.read_below :
    ∀ {m : Memory} {lo i : Nat}, Memory.wfFrom lo m = true → i < lo → Memory.read m i = 0
  | [], _, _, _, _ => rfl
  | (k, v) :: rest, lo, i, hm, hi => by
    simp only [Memory.wfFrom, Bool.and_eq_true, decide_eq_true_eq] at hm
    have hk : k ≠ i := by omega
    simp only [Memory.read, hk, if_false]
    exact Memory.read_below hm.2 (by omega)

theorem Memory.write_wfFrom (b : Byte) :
    ∀ {m : Memory} {lo i : Nat}, Memory.wfFrom lo m = true → lo ≤ i →
      Memory.wfFrom lo (Memory.write m i b) = true
  | [], lo, i, _, hi => by
    unfold Memory.write
    split <;> simp_all [Memory.wfFrom]
  | (k, v) :: rest, lo, i, hm, hi => by
    have hm' := hm
    simp only [Memory.wfFrom, Bool.and_eq_true, decide_eq_true_eq] at hm
    unfold Memory.write
    split
    · split
      · exact hm'
      · simp_all [Memory.wfFrom]
    · split
      · subst i
        split
        · exact Memory.wfFrom_mono (by omega) hm.2
        · simp_all [Memory.wfFrom]
      · simp only [Memory.wfFrom, Bool.and_eq_true, decide_eq_true_eq]
        exact ⟨hm.1, Memory.write_wfFrom b hm.2 (by omega)⟩

/-- Every write keeps the canonical form. -/
theorem Memory.write_wf {m : Memory} (i : Nat) (b : Byte) (h : Memory.wf m = true) :
    Memory.wf (Memory.write m i b) = true :=
  Memory.write_wfFrom b h (Nat.zero_le i)

theorem Memory.read_writeFrom (b : Byte) :
    ∀ {m : Memory} {lo i : Nat}, Memory.wfFrom lo m = true →
      ∀ j, Memory.read (Memory.write m i b) j = if j = i then b else Memory.read m j
  | [], lo, i, _, j => by
    unfold Memory.write
    by_cases hj : j = i
    · split <;> simp_all [Memory.read]
    · split <;> simp [Memory.read, Ne.symm hj]
  | (k, v) :: rest, lo, i, hm, j => by
    simp only [Memory.wfFrom, Bool.and_eq_true, decide_eq_true_eq] at hm
    have below : ∀ {x}, x < k + 1 → Memory.read rest x = 0 := Memory.read_below hm.2
    unfold Memory.write
    split
    · rename_i hik
      split
      · rename_i hb
        by_cases hj : j = i
        · have hne : k ≠ j := by omega
          simp only [Memory.read, hne, if_false]
          rw [below (by omega), if_pos hj, hb]; rfl
        · simp [hj]
      · by_cases hj : j = i
        · simp [Memory.read, hj]
        · simp [Memory.read, hj, Ne.symm hj]
    · rename_i hik
      split
      · rename_i hk
        subst hk
        split
        · rename_i hb
          by_cases hj : j = i
          · subst hj; rw [below (by omega)]; simp [hb, Memory.unlisted]
          · simp [Memory.read, hj, Ne.symm hj]
        · by_cases hj : j = i
          · simp [Memory.read, hj]
          · simp [Memory.read, hj, Ne.symm hj]
      · rename_i hk
        simp only [Memory.read]
        by_cases hkj : k = j
        · have : j ≠ i := by omega
          simp [hkj, this]
        · simp only [hkj, if_false]
          exact Memory.read_writeFrom b hm.2 j

/-- A read after a write: the byte written at its index, every other byte as before. -/
theorem Memory.read_write {m : Memory} (h : Memory.wf m = true) (i j : Nat) (b : Byte) :
    Memory.read (Memory.write m i b) j = if j = i then b else Memory.read m j :=
  Memory.read_writeFrom b h j

/-- A write leaves every other byte alone, in any buffer, canonical or not. -/
theorem Memory.read_write_ne (b : Byte) :
    ∀ (m : Memory) {i j : Nat}, j ≠ i → Memory.read (Memory.write m i b) j = Memory.read m j
  | [], i, j, h => by
    unfold Memory.write
    split <;> simp [Memory.read, Memory.unlisted, Ne.symm h]
  | (k, v) :: rest, i, j, h => by
    unfold Memory.write
    split
    · split <;> simp [Memory.read, Ne.symm h]
    · split
      · rename_i hk
        have hkj : k ≠ j := by omega
        split <;> simp [Memory.read, hkj, Ne.symm h]
      · by_cases hkj : k = j
        · simp [Memory.read, hkj]
        · simp only [Memory.read, hkj, if_false]
          exact Memory.read_write_ne b rest h

theorem Memory.ext_from :
    ∀ {m m' : Memory} {lo lo' : Nat}, Memory.wfFrom lo m = true → Memory.wfFrom lo' m' = true →
      (∀ i, Memory.read m i = Memory.read m' i) → m = m'
  | [], [], _, _, _, _, _ => rfl
  | [], (k, v) :: rest, _, _, _, h', he => by
    simp only [Memory.wfFrom, Bool.and_eq_true, decide_eq_true_eq] at h'
    have := he k
    simp [Memory.read] at this
    simp [← this, Memory.unlisted] at h'
  | (k, v) :: rest, [], _, _, h, _, he => by
    simp only [Memory.wfFrom, Bool.and_eq_true, decide_eq_true_eq] at h
    have := he k
    simp [Memory.read] at this
    simp [this, Memory.unlisted] at h
  | (k, v) :: rest, (k', v') :: rest', lo, lo', h, h', he => by
    simp only [Memory.wfFrom, Bool.and_eq_true, decide_eq_true_eq] at h h'
    have below : ∀ {x}, x < k + 1 → Memory.read rest x = 0 := Memory.read_below h.2
    have below' : ∀ {x}, x < k' + 1 → Memory.read rest' x = 0 := Memory.read_below h'.2
    have hv : v ≠ 0 := by simpa [Memory.unlisted] using h.1.2
    have hv' : v' ≠ 0 := by simpa [Memory.unlisted] using h'.1.2
    have hk : k = k' := by
      rcases Nat.lt_trichotomy k k' with hlt | heq | hgt
      · have := he k
        have hne : k' ≠ k := by omega
        simp only [Memory.read, if_true, hne, if_false] at this
        rw [below' (by omega)] at this
        exact absurd this hv
      · exact heq
      · have := he k'
        have hne : k ≠ k' := by omega
        simp only [Memory.read, if_true, hne, if_false] at this
        rw [below (by omega)] at this
        exact absurd this.symm hv'
    subst hk
    have hvv : v = v' := by simpa [Memory.read] using he k
    subst hvv
    have hrest : rest = rest' := by
      refine Memory.ext_from h.2 h'.2 fun i => ?_
      by_cases hi : k = i
      · subst hi; rw [below (by omega), below' (by omega)]
      · simpa [Memory.read, hi] using he i
    rw [hrest]

/-- Two canonical buffers that read the same are the same list. -/
theorem Memory.ext_read {m m' : Memory} (h : Memory.wf m = true) (h' : Memory.wf m' = true)
    (he : ∀ i, Memory.read m i = Memory.read m' i) : m = m' :=
  Memory.ext_from h h' he

@[simp] theorem Memory.bytes_length (m : Memory) (n : Nat) : (Memory.bytes m n).length = n := by
  simp [Memory.bytes]

@[simp] theorem Memory.bytes_getElem (m : Memory) (n i : Nat) (h : i < (Memory.bytes m n).length) :
    (Memory.bytes m n)[i] = Memory.read m i := by
  simp [Memory.bytes]

theorem Memory.bytes_succ (m : Memory) (n : Nat) :
    Memory.bytes m (n + 1) = Memory.bytes m n ++ [Memory.read m n] := by
  simp [Memory.bytes, List.range_succ]

end Sys2Proof.Machine
end

