-- ==== Sys2Proof/Laws/Base32.lean ====
section
/-! SUPPORT. The laws of the decoder unit's shared operations: characters, the repacking step's two
cases, taking one symbol, the loop over the token, and the staged decode. -/

namespace Sys2Proof.Machine

/-! ### Characters -/

/-- A character that `NORM` leaves outside the alphabet was outside it before: for an invalid
character the normalised byte is the byte (R119). -/
theorem norm_of_b32val_none : ∀ c : Byte, b32val (norm c) = none → norm c = c := by
  decide +kernel

/-! ### The repacking step -/

theorem repack_hold {acc bits v : Nat} (hv : v < 32) (h : bits + 5 < 8) :
    repack acc bits v = { acc := acc * 32 + v, bits := bits + 5, out := none } := by
  have ht : acc <<< 5 ||| v = acc * 32 + v := by
    rw [← Nat.shiftLeft_add_eq_or_of_lt (show v < 2 ^ 5 by omega), Nat.shiftLeft_eq]
  simp [repack, ht, show ¬ 8 ≤ bits + 5 by omega]

theorem repack_emit {acc bits v : Nat} (hv : v < 32) (h : 8 ≤ bits + 5) :
    repack acc bits v =
      { acc := (acc * 32 + v) % 2 ^ (bits + 5 - 8), bits := bits + 5 - 8,
        out := some ((acc * 32 + v) / 2 ^ (bits + 5 - 8) % 256) } := by
  have ht : acc <<< 5 ||| v = acc * 32 + v := by
    rw [← Nat.shiftLeft_add_eq_or_of_lt (show v < 2 ^ 5 by omega), Nat.shiftLeft_eq]
  have hff : ∀ x : Nat, x &&& 255 = x % 256 := fun x => Nat.and_two_pow_sub_one_eq_mod x 8
  simp [repack, ht, h, Nat.shiftRight_eq_div_pow, hff, Nat.and_two_pow_sub_one_eq_mod]

/-! ### Taking one symbol -/

@[simp] theorem pushSymbol_nchars (d : Decoder) (v : BitVec 5) :
    (pushSymbol d v).nchars = d.nchars + 1 := by
  unfold pushSymbol; dsimp only; split <;> rfl

@[simp] theorem pushSymbol_bits (d : Decoder) (v : BitVec 5) :
    (pushSymbol d v).bits = BitVec.ofNat 3 (decoderStep d v).bits := by
  unfold pushSymbol; dsimp only; split <;> rfl

@[simp] theorem pushSymbol_acc (d : Decoder) (v : BitVec 5) :
    (pushSymbol d v).acc = BitVec.ofNat 7 (decoderStep d v).acc := by
  unfold pushSymbol; dsimp only; split <;> rfl

/-- A symbol that emits no byte leaves the key as it was. -/
theorem pushSymbol_none {d : Decoder} {v : BitVec 5} (h : (decoderStep d v).out = none) :
    (pushSymbol d v).keyLen = d.keyLen ∧ (pushSymbol d v).keyBuf = d.keyBuf := by
  unfold pushSymbol; dsimp only; rw [h]; exact ⟨rfl, rfl⟩

/-- A symbol that emits a byte stores it at `KEY_BUF[KEY_LEN]` and counts it. -/
theorem pushSymbol_some {d : Decoder} {v : BitVec 5} {b : Nat} (h : (decoderStep d v).out = some b) :
    (pushSymbol d v).keyLen = d.keyLen + 1 ∧
      (pushSymbol d v).keyBuf = Memory.write d.keyBuf d.keyLen.toNat (BitVec.ofNat 8 b) := by
  unfold pushSymbol; dsimp only; rw [h]; exact ⟨rfl, rfl⟩

/-! ### The loop and the staged decode -/

@[simp] theorem decodeChars_nil (pos : Nat) (d : Decoder) : decodeChars pos [] d = .ok d := rfl

theorem decodeChars_cons_some {c : Byte} {v : BitVec 5} (h : b32val (norm c) = some v) (pos : Nat)
    (cs : List Byte) (d : Decoder) :
    decodeChars pos (c :: cs) d = decodeChars (pos + 1) cs (pushSymbol d v) := by
  simp only [decodeChars, h]

theorem decodeChars_cons_none {c : Byte} (h : b32val (norm c) = none) (pos : Nat) (cs : List Byte)
    (d : Decoder) :
    decodeChars pos (c :: cs) d = .error (.invalidCharacter (norm c) (BitVec.ofNat 16 pos)) := by
  simp only [decodeChars, h]

/-- The loop runs a prefix whose characters it accepts, and then the rest. -/
theorem decodeChars_append {cs cs' : List Byte} :
    ∀ {pos : Nat} {d d' : Decoder}, decodeChars pos cs d = .ok d' →
      decodeChars pos (cs ++ cs') d = decodeChars (pos + cs.length) cs' d' := by
  induction cs with
  | nil => intro pos d d' h; cases h; rfl
  | cons c cs ih =>
    intro pos d d' h
    cases hv : b32val (norm c) with
    | none => rw [decodeChars_cons_none hv] at h; cases h
    | some v =>
      rw [decodeChars_cons_some hv] at h
      rw [List.cons_append, decodeChars_cons_some hv, ih h, List.length_cons]
      congr 1; omega

/-- What the staged decode answers: `LENGTH_ERROR`, or what the loop answers on the token. -/
theorem stageDecode_cases (s : State) :
    (s.inMax < s.inLen.toNat ∧ stageDecode s = .error .lengthError) ∨
      (s.inLen.toNat ≤ s.inMax ∧ stageDecode s = decodeChars 0 (token s) Decoder.cleared) := by
  unfold stageDecode
  split
  · exact .inl ⟨‹_›, rfl⟩
  · exact .inr ⟨by omega, rfl⟩

theorem strippedLen_le (buf : Memory) : ∀ n, strippedLen buf n ≤ n
  | 0 => le_refl 0
  | n + 1 => by
    unfold strippedLen
    split
    · exact le_trans (strippedLen_le buf n) (Nat.le_succ n)
    · exact le_refl _

@[simp] theorem token_length (s : State) :
    (token s).length = strippedLen s.inBuf s.inLen.toNat := by
  simp [token]

end Sys2Proof.Machine
end

