-- ==== Sys2Proof/Laws/State.lean ====
section
/-! SUPPORT. What each named update does to each field of `State`: one lemma per field per update,
so that no later proof unfolds a record update. -/

namespace Sys2Proof.Machine

/-! ### `succeed` -/

@[simp] theorem succeed_inMax (s : State) : (succeed s).inMax = s.inMax := rfl
@[simp] theorem succeed_overrun (s : State) : (succeed s).overrun = s.overrun := rfl
@[simp] theorem succeed_errCode (s : State) : (succeed s).errCode = .ok := rfl
@[simp] theorem succeed_errChar (s : State) : (succeed s).errChar = s.errChar := rfl
@[simp] theorem succeed_errPos (s : State) : (succeed s).errPos = s.errPos := rfl
@[simp] theorem succeed_lookupValue (s : State) : (succeed s).lookupValue = s.lookupValue := rfl
@[simp] theorem succeed_lookupValid (s : State) : (succeed s).lookupValid = s.lookupValid := rfl
@[simp] theorem succeed_inLen (s : State) : (succeed s).inLen = s.inLen := rfl
@[simp] theorem succeed_inBuf (s : State) : (succeed s).inBuf = s.inBuf := rfl
@[simp] theorem succeed_dec (s : State) : (succeed s).dec = s.dec := rfl
@[simp] theorem succeed_timeMs (s : State) : (succeed s).timeMs = s.timeMs := rfl
@[simp] theorem succeed_timeStep (s : State) : (succeed s).timeStep = s.timeStep := rfl
@[simp] theorem succeed_timeOffset (s : State) : (succeed s).timeOffset = s.timeOffset := rfl
@[simp] theorem succeed_ctr (s : State) : (succeed s).ctr = s.ctr := rfl
@[simp] theorem succeed_msg (s : State) : (succeed s).msg = s.msg := rfl
@[simp] theorem succeed_digest (s : State) : (succeed s).digest = s.digest := rfl
@[simp] theorem succeed_offset (s : State) : (succeed s).offset = s.offset := rfl
@[simp] theorem succeed_trunc (s : State) : (succeed s).trunc = s.trunc := rfl
@[simp] theorem succeed_codeBin (s : State) : (succeed s).codeBin = s.codeBin := rfl
@[simp] theorem succeed_codeAscii (s : State) : (succeed s).codeAscii = s.codeAscii := rfl
@[simp] theorem succeed_pend (s : State) : (succeed s).pend = s.pend := rfl
@[simp] theorem succeed_inbox (s : State) : (succeed s).inbox = s.inbox := rfl
@[simp] theorem succeed_readData (s : State) : (succeed s).readData = s.readData := rfl

/-! ### `raise` -/

@[simp] theorem raise_inMax (e : CmdError) (s : State) :
    (raise e s).inMax = s.inMax := by cases e <;> rfl
@[simp] theorem raise_overrun (e : CmdError) (s : State) :
    (raise e s).overrun = s.overrun := by cases e <;> rfl
@[simp] theorem raise_errCode (e : CmdError) (s : State) :
    (raise e s).errCode = errCodeOf e := by cases e <;> rfl
@[simp] theorem raise_lookupValue (e : CmdError) (s : State) :
    (raise e s).lookupValue = s.lookupValue := by cases e <;> rfl
@[simp] theorem raise_lookupValid (e : CmdError) (s : State) :
    (raise e s).lookupValid = s.lookupValid := by cases e <;> rfl
@[simp] theorem raise_inLen (e : CmdError) (s : State) :
    (raise e s).inLen = s.inLen := by cases e <;> rfl
@[simp] theorem raise_inBuf (e : CmdError) (s : State) :
    (raise e s).inBuf = s.inBuf := by cases e <;> rfl
@[simp] theorem raise_dec (e : CmdError) (s : State) : (raise e s).dec = s.dec := by cases e <;> rfl
@[simp] theorem raise_timeMs (e : CmdError) (s : State) :
    (raise e s).timeMs = s.timeMs := by cases e <;> rfl
@[simp] theorem raise_timeStep (e : CmdError) (s : State) :
    (raise e s).timeStep = s.timeStep := by cases e <;> rfl
@[simp] theorem raise_timeOffset (e : CmdError) (s : State) :
    (raise e s).timeOffset = s.timeOffset := by cases e <;> rfl
@[simp] theorem raise_ctr (e : CmdError) (s : State) : (raise e s).ctr = s.ctr := by cases e <;> rfl
@[simp] theorem raise_msg (e : CmdError) (s : State) : (raise e s).msg = s.msg := by cases e <;> rfl
@[simp] theorem raise_digest (e : CmdError) (s : State) :
    (raise e s).digest = s.digest := by cases e <;> rfl
@[simp] theorem raise_offset (e : CmdError) (s : State) :
    (raise e s).offset = s.offset := by cases e <;> rfl
@[simp] theorem raise_trunc (e : CmdError) (s : State) :
    (raise e s).trunc = s.trunc := by cases e <;> rfl
@[simp] theorem raise_codeBin (e : CmdError) (s : State) :
    (raise e s).codeBin = s.codeBin := by cases e <;> rfl
@[simp] theorem raise_codeAscii (e : CmdError) (s : State) :
    (raise e s).codeAscii = s.codeAscii := by cases e <;> rfl
@[simp] theorem raise_pend (e : CmdError) (s : State) :
    (raise e s).pend = s.pend := by cases e <;> rfl
@[simp] theorem raise_inbox (e : CmdError) (s : State) :
    (raise e s).inbox = s.inbox := by cases e <;> rfl
@[simp] theorem raise_readData (e : CmdError) (s : State) :
    (raise e s).readData = s.readData := by cases e <;> rfl

/-! ### `dropWrite` -/

@[simp] theorem dropWrite_inMax (s : State) : (dropWrite s).inMax = s.inMax := rfl
@[simp] theorem dropWrite_overrun (s : State) : (dropWrite s).overrun = true := rfl
@[simp] theorem dropWrite_errCode (s : State) : (dropWrite s).errCode = s.errCode := rfl
@[simp] theorem dropWrite_errChar (s : State) : (dropWrite s).errChar = s.errChar := rfl
@[simp] theorem dropWrite_errPos (s : State) : (dropWrite s).errPos = s.errPos := rfl
@[simp] theorem dropWrite_lookupValue (s : State) : (dropWrite s).lookupValue = s.lookupValue := rfl
@[simp] theorem dropWrite_lookupValid (s : State) : (dropWrite s).lookupValid = s.lookupValid := rfl
@[simp] theorem dropWrite_inLen (s : State) : (dropWrite s).inLen = s.inLen := rfl
@[simp] theorem dropWrite_inBuf (s : State) : (dropWrite s).inBuf = s.inBuf := rfl
@[simp] theorem dropWrite_dec (s : State) : (dropWrite s).dec = s.dec := rfl
@[simp] theorem dropWrite_timeMs (s : State) : (dropWrite s).timeMs = s.timeMs := rfl
@[simp] theorem dropWrite_timeStep (s : State) : (dropWrite s).timeStep = s.timeStep := rfl
@[simp] theorem dropWrite_timeOffset (s : State) : (dropWrite s).timeOffset = s.timeOffset := rfl
@[simp] theorem dropWrite_ctr (s : State) : (dropWrite s).ctr = s.ctr := rfl
@[simp] theorem dropWrite_msg (s : State) : (dropWrite s).msg = s.msg := rfl
@[simp] theorem dropWrite_digest (s : State) : (dropWrite s).digest = s.digest := rfl
@[simp] theorem dropWrite_offset (s : State) : (dropWrite s).offset = s.offset := rfl
@[simp] theorem dropWrite_trunc (s : State) : (dropWrite s).trunc = s.trunc := rfl
@[simp] theorem dropWrite_codeBin (s : State) : (dropWrite s).codeBin = s.codeBin := rfl
@[simp] theorem dropWrite_codeAscii (s : State) : (dropWrite s).codeAscii = s.codeAscii := rfl
@[simp] theorem dropWrite_pend (s : State) : (dropWrite s).pend = s.pend := rfl
@[simp] theorem dropWrite_inbox (s : State) : (dropWrite s).inbox = s.inbox := rfl
@[simp] theorem dropWrite_readData (s : State) : (dropWrite s).readData = s.readData := rfl

/-! ### `writeStatus` -/

@[simp] theorem writeStatus_inMax (v : Word) (s : State) :
    (writeStatus v s).inMax = s.inMax := by unfold writeStatus; split <;> simp_all
@[simp] theorem writeStatus_overrun (v : Word) (s : State) :
    (writeStatus v s).overrun = (s.overrun && !v.getLsbD 1) :=
  by unfold writeStatus; split <;> simp_all
@[simp] theorem writeStatus_errCode (v : Word) (s : State) :
    (writeStatus v s).errCode = s.errCode := by unfold writeStatus; split <;> simp_all
@[simp] theorem writeStatus_errChar (v : Word) (s : State) :
    (writeStatus v s).errChar = s.errChar := by unfold writeStatus; split <;> simp_all
@[simp] theorem writeStatus_errPos (v : Word) (s : State) :
    (writeStatus v s).errPos = s.errPos := by unfold writeStatus; split <;> simp_all
@[simp] theorem writeStatus_lookupValue (v : Word) (s : State) :
    (writeStatus v s).lookupValue = s.lookupValue := by unfold writeStatus; split <;> simp_all
@[simp] theorem writeStatus_lookupValid (v : Word) (s : State) :
    (writeStatus v s).lookupValid = s.lookupValid := by unfold writeStatus; split <;> simp_all
@[simp] theorem writeStatus_inLen (v : Word) (s : State) :
    (writeStatus v s).inLen = s.inLen := by unfold writeStatus; split <;> simp_all
@[simp] theorem writeStatus_inBuf (v : Word) (s : State) :
    (writeStatus v s).inBuf = s.inBuf := by unfold writeStatus; split <;> simp_all
@[simp] theorem writeStatus_dec (v : Word) (s : State) :
    (writeStatus v s).dec = s.dec := by unfold writeStatus; split <;> simp_all
@[simp] theorem writeStatus_timeMs (v : Word) (s : State) :
    (writeStatus v s).timeMs = s.timeMs := by unfold writeStatus; split <;> simp_all
@[simp] theorem writeStatus_timeStep (v : Word) (s : State) :
    (writeStatus v s).timeStep = s.timeStep := by unfold writeStatus; split <;> simp_all
@[simp] theorem writeStatus_timeOffset (v : Word) (s : State) :
    (writeStatus v s).timeOffset = s.timeOffset := by unfold writeStatus; split <;> simp_all
@[simp] theorem writeStatus_ctr (v : Word) (s : State) :
    (writeStatus v s).ctr = s.ctr := by unfold writeStatus; split <;> simp_all
@[simp] theorem writeStatus_msg (v : Word) (s : State) :
    (writeStatus v s).msg = s.msg := by unfold writeStatus; split <;> simp_all
@[simp] theorem writeStatus_digest (v : Word) (s : State) :
    (writeStatus v s).digest = s.digest := by unfold writeStatus; split <;> simp_all
@[simp] theorem writeStatus_offset (v : Word) (s : State) :
    (writeStatus v s).offset = s.offset := by unfold writeStatus; split <;> simp_all
@[simp] theorem writeStatus_trunc (v : Word) (s : State) :
    (writeStatus v s).trunc = s.trunc := by unfold writeStatus; split <;> simp_all
@[simp] theorem writeStatus_codeBin (v : Word) (s : State) :
    (writeStatus v s).codeBin = s.codeBin := by unfold writeStatus; split <;> simp_all
@[simp] theorem writeStatus_codeAscii (v : Word) (s : State) :
    (writeStatus v s).codeAscii = s.codeAscii := by unfold writeStatus; split <;> simp_all
@[simp] theorem writeStatus_pend (v : Word) (s : State) :
    (writeStatus v s).pend = s.pend := by unfold writeStatus; split <;> simp_all
@[simp] theorem writeStatus_inbox (v : Word) (s : State) :
    (writeStatus v s).inbox = s.inbox := by unfold writeStatus; split <;> simp_all
@[simp] theorem writeStatus_readData (v : Word) (s : State) :
    (writeStatus v s).readData = s.readData := by unfold writeStatus; split <;> simp_all

/-! ### `resetBlock` -/

@[simp] theorem resetBlock_inMax (s : State) : (resetBlock s).inMax = s.inMax := rfl
@[simp] theorem resetBlock_overrun (s : State) : (resetBlock s).overrun = State.reset.overrun := rfl
@[simp] theorem resetBlock_errCode (s : State) : (resetBlock s).errCode = State.reset.errCode := rfl
@[simp] theorem resetBlock_errChar (s : State) : (resetBlock s).errChar = State.reset.errChar := rfl
@[simp] theorem resetBlock_errPos (s : State) : (resetBlock s).errPos = State.reset.errPos := rfl
@[simp] theorem resetBlock_lookupValue (s : State) :
    (resetBlock s).lookupValue = State.reset.lookupValue := rfl
@[simp] theorem resetBlock_lookupValid (s : State) :
    (resetBlock s).lookupValid = State.reset.lookupValid := rfl
@[simp] theorem resetBlock_inLen (s : State) : (resetBlock s).inLen = State.reset.inLen := rfl
@[simp] theorem resetBlock_inBuf (s : State) : (resetBlock s).inBuf = State.reset.inBuf := rfl
@[simp] theorem resetBlock_dec (s : State) : (resetBlock s).dec = State.reset.dec := rfl
@[simp] theorem resetBlock_timeMs (s : State) : (resetBlock s).timeMs = State.reset.timeMs := rfl
@[simp] theorem resetBlock_timeStep (s : State) :
    (resetBlock s).timeStep = State.reset.timeStep := rfl
@[simp] theorem resetBlock_timeOffset (s : State) :
    (resetBlock s).timeOffset = State.reset.timeOffset := rfl
@[simp] theorem resetBlock_ctr (s : State) : (resetBlock s).ctr = State.reset.ctr := rfl
@[simp] theorem resetBlock_msg (s : State) : (resetBlock s).msg = State.reset.msg := rfl
@[simp] theorem resetBlock_digest (s : State) : (resetBlock s).digest = State.reset.digest := rfl
@[simp] theorem resetBlock_offset (s : State) : (resetBlock s).offset = State.reset.offset := rfl
@[simp] theorem resetBlock_trunc (s : State) : (resetBlock s).trunc = State.reset.trunc := rfl
@[simp] theorem resetBlock_codeBin (s : State) : (resetBlock s).codeBin = State.reset.codeBin := rfl
@[simp] theorem resetBlock_codeAscii (s : State) :
    (resetBlock s).codeAscii = State.reset.codeAscii := rfl
@[simp] theorem resetBlock_pend (s : State) : (resetBlock s).pend = State.reset.pend := rfl
@[simp] theorem resetBlock_inbox (s : State) : (resetBlock s).inbox = s.inbox := rfl
@[simp] theorem resetBlock_readData (s : State) : (resetBlock s).readData = s.readData := rfl

/-! ### `hostRead` -/

@[simp] theorem hostRead_inMax (a : Addr) (s : State) : (hostRead a s).inMax = s.inMax := rfl
@[simp] theorem hostRead_overrun (a : Addr) (s : State) : (hostRead a s).overrun = s.overrun := rfl
@[simp] theorem hostRead_errCode (a : Addr) (s : State) : (hostRead a s).errCode = s.errCode := rfl
@[simp] theorem hostRead_errChar (a : Addr) (s : State) : (hostRead a s).errChar = s.errChar := rfl
@[simp] theorem hostRead_errPos (a : Addr) (s : State) : (hostRead a s).errPos = s.errPos := rfl
@[simp] theorem hostRead_lookupValue (a : Addr) (s : State) :
    (hostRead a s).lookupValue = s.lookupValue := rfl
@[simp] theorem hostRead_lookupValid (a : Addr) (s : State) :
    (hostRead a s).lookupValid = s.lookupValid := rfl
@[simp] theorem hostRead_inLen (a : Addr) (s : State) : (hostRead a s).inLen = s.inLen := rfl
@[simp] theorem hostRead_inBuf (a : Addr) (s : State) : (hostRead a s).inBuf = s.inBuf := rfl
@[simp] theorem hostRead_dec (a : Addr) (s : State) : (hostRead a s).dec = s.dec := rfl
@[simp] theorem hostRead_timeMs (a : Addr) (s : State) : (hostRead a s).timeMs = s.timeMs := rfl
@[simp] theorem hostRead_timeStep (a : Addr) (s : State) :
    (hostRead a s).timeStep = s.timeStep := rfl
@[simp] theorem hostRead_timeOffset (a : Addr) (s : State) :
    (hostRead a s).timeOffset = s.timeOffset := rfl
@[simp] theorem hostRead_ctr (a : Addr) (s : State) : (hostRead a s).ctr = s.ctr := rfl
@[simp] theorem hostRead_msg (a : Addr) (s : State) : (hostRead a s).msg = s.msg := rfl
@[simp] theorem hostRead_digest (a : Addr) (s : State) : (hostRead a s).digest = s.digest := rfl
@[simp] theorem hostRead_offset (a : Addr) (s : State) : (hostRead a s).offset = s.offset := rfl
@[simp] theorem hostRead_trunc (a : Addr) (s : State) : (hostRead a s).trunc = s.trunc := rfl
@[simp] theorem hostRead_codeBin (a : Addr) (s : State) : (hostRead a s).codeBin = s.codeBin := rfl
@[simp] theorem hostRead_codeAscii (a : Addr) (s : State) :
    (hostRead a s).codeAscii = s.codeAscii := rfl
@[simp] theorem hostRead_pend (a : Addr) (s : State) : (hostRead a s).pend = s.pend := rfl
@[simp] theorem hostRead_inbox (a : Addr) (s : State) : (hostRead a s).inbox = s.inbox := rfl
@[simp] theorem hostRead_readData (a : Addr) (s : State) :
    (hostRead a s).readData = some (busRead s a) := rfl

/-! ### `deriveCounter` -/

@[simp] theorem deriveCounter_inMax (s : State) : (deriveCounter s).inMax = s.inMax := rfl
@[simp] theorem deriveCounter_overrun (s : State) : (deriveCounter s).overrun = s.overrun := rfl
@[simp] theorem deriveCounter_errCode (s : State) : (deriveCounter s).errCode = s.errCode := rfl
@[simp] theorem deriveCounter_errChar (s : State) : (deriveCounter s).errChar = s.errChar := rfl
@[simp] theorem deriveCounter_errPos (s : State) : (deriveCounter s).errPos = s.errPos := rfl
@[simp] theorem deriveCounter_lookupValue (s : State) :
    (deriveCounter s).lookupValue = s.lookupValue := rfl
@[simp] theorem deriveCounter_lookupValid (s : State) :
    (deriveCounter s).lookupValid = s.lookupValid := rfl
@[simp] theorem deriveCounter_inLen (s : State) : (deriveCounter s).inLen = s.inLen := rfl
@[simp] theorem deriveCounter_inBuf (s : State) : (deriveCounter s).inBuf = s.inBuf := rfl
@[simp] theorem deriveCounter_dec (s : State) : (deriveCounter s).dec = s.dec := rfl
@[simp] theorem deriveCounter_timeMs (s : State) : (deriveCounter s).timeMs = s.timeMs := rfl
@[simp] theorem deriveCounter_timeStep (s : State) : (deriveCounter s).timeStep = s.timeStep := rfl
@[simp] theorem deriveCounter_timeOffset (s : State) :
    (deriveCounter s).timeOffset = s.timeOffset := rfl
@[simp] theorem deriveCounter_ctr (s : State) :
    (deriveCounter s).ctr = BitVec.ofInt 64 (counterOf s) := rfl
@[simp] theorem deriveCounter_msg (s : State) : (deriveCounter s).msg = s.msg := rfl
@[simp] theorem deriveCounter_digest (s : State) : (deriveCounter s).digest = s.digest := rfl
@[simp] theorem deriveCounter_offset (s : State) : (deriveCounter s).offset = s.offset := rfl
@[simp] theorem deriveCounter_trunc (s : State) : (deriveCounter s).trunc = s.trunc := rfl
@[simp] theorem deriveCounter_codeBin (s : State) : (deriveCounter s).codeBin = s.codeBin := rfl
@[simp] theorem deriveCounter_codeAscii (s : State) :
    (deriveCounter s).codeAscii = s.codeAscii := rfl
@[simp] theorem deriveCounter_pend (s : State) : (deriveCounter s).pend = s.pend := rfl
@[simp] theorem deriveCounter_inbox (s : State) : (deriveCounter s).inbox = s.inbox := rfl
@[simp] theorem deriveCounter_readData (s : State) : (deriveCounter s).readData = s.readData := rfl

/-! ### `encodeCounter` -/

@[simp] theorem encodeCounter_inMax (s : State) : (encodeCounter s).inMax = s.inMax := rfl
@[simp] theorem encodeCounter_overrun (s : State) : (encodeCounter s).overrun = s.overrun := rfl
@[simp] theorem encodeCounter_errCode (s : State) : (encodeCounter s).errCode = s.errCode := rfl
@[simp] theorem encodeCounter_errChar (s : State) : (encodeCounter s).errChar = s.errChar := rfl
@[simp] theorem encodeCounter_errPos (s : State) : (encodeCounter s).errPos = s.errPos := rfl
@[simp] theorem encodeCounter_lookupValue (s : State) :
    (encodeCounter s).lookupValue = s.lookupValue := rfl
@[simp] theorem encodeCounter_lookupValid (s : State) :
    (encodeCounter s).lookupValid = s.lookupValid := rfl
@[simp] theorem encodeCounter_inLen (s : State) : (encodeCounter s).inLen = s.inLen := rfl
@[simp] theorem encodeCounter_inBuf (s : State) : (encodeCounter s).inBuf = s.inBuf := rfl
@[simp] theorem encodeCounter_dec (s : State) : (encodeCounter s).dec = s.dec := rfl
@[simp] theorem encodeCounter_timeMs (s : State) : (encodeCounter s).timeMs = s.timeMs := rfl
@[simp] theorem encodeCounter_timeStep (s : State) : (encodeCounter s).timeStep = s.timeStep := rfl
@[simp] theorem encodeCounter_timeOffset (s : State) :
    (encodeCounter s).timeOffset = s.timeOffset := rfl
@[simp] theorem encodeCounter_ctr (s : State) : (encodeCounter s).ctr = s.ctr := rfl
@[simp] theorem encodeCounter_msg (s : State) :
    (encodeCounter s).msg = Vector.ofFn fun k : Fin 8 => s.ctr.extractLsb' (56 - 8 * k.val) 8 := rfl
@[simp] theorem encodeCounter_digest (s : State) : (encodeCounter s).digest = s.digest := rfl
@[simp] theorem encodeCounter_offset (s : State) : (encodeCounter s).offset = s.offset := rfl
@[simp] theorem encodeCounter_trunc (s : State) : (encodeCounter s).trunc = s.trunc := rfl
@[simp] theorem encodeCounter_codeBin (s : State) : (encodeCounter s).codeBin = s.codeBin := rfl
@[simp] theorem encodeCounter_codeAscii (s : State) :
    (encodeCounter s).codeAscii = s.codeAscii := rfl
@[simp] theorem encodeCounter_pend (s : State) : (encodeCounter s).pend = s.pend := rfl
@[simp] theorem encodeCounter_inbox (s : State) : (encodeCounter s).inbox = s.inbox := rfl
@[simp] theorem encodeCounter_readData (s : State) : (encodeCounter s).readData = s.readData := rfl

/-! ### `truncateDigest` -/

@[simp] theorem truncateDigest_inMax (s : State) : (truncateDigest s).inMax = s.inMax := rfl
@[simp] theorem truncateDigest_overrun (s : State) : (truncateDigest s).overrun = s.overrun := rfl
@[simp] theorem truncateDigest_errCode (s : State) : (truncateDigest s).errCode = s.errCode := rfl
@[simp] theorem truncateDigest_errChar (s : State) : (truncateDigest s).errChar = s.errChar := rfl
@[simp] theorem truncateDigest_errPos (s : State) : (truncateDigest s).errPos = s.errPos := rfl
@[simp] theorem truncateDigest_lookupValue (s : State) :
    (truncateDigest s).lookupValue = s.lookupValue := rfl
@[simp] theorem truncateDigest_lookupValid (s : State) :
    (truncateDigest s).lookupValid = s.lookupValid := rfl
@[simp] theorem truncateDigest_inLen (s : State) : (truncateDigest s).inLen = s.inLen := rfl
@[simp] theorem truncateDigest_inBuf (s : State) : (truncateDigest s).inBuf = s.inBuf := rfl
@[simp] theorem truncateDigest_dec (s : State) : (truncateDigest s).dec = s.dec := rfl
@[simp] theorem truncateDigest_timeMs (s : State) : (truncateDigest s).timeMs = s.timeMs := rfl
@[simp] theorem truncateDigest_timeStep (s : State) :
    (truncateDigest s).timeStep = s.timeStep := rfl
@[simp] theorem truncateDigest_timeOffset (s : State) :
    (truncateDigest s).timeOffset = s.timeOffset := rfl
@[simp] theorem truncateDigest_ctr (s : State) : (truncateDigest s).ctr = s.ctr := rfl
@[simp] theorem truncateDigest_msg (s : State) : (truncateDigest s).msg = s.msg := rfl
@[simp] theorem truncateDigest_digest (s : State) : (truncateDigest s).digest = s.digest := rfl
@[simp] theorem truncateDigest_offset (s : State) :
    (truncateDigest s).offset = offsetOf s.digest := rfl
@[simp] theorem truncateDigest_trunc (s : State) :
    (truncateDigest s).trunc = (windowAt s.digest (offsetOf s.digest)).setWidth 31 := rfl
@[simp] theorem truncateDigest_codeBin (s : State) : (truncateDigest s).codeBin = s.codeBin := rfl
@[simp] theorem truncateDigest_codeAscii (s : State) :
    (truncateDigest s).codeAscii = s.codeAscii := rfl
@[simp] theorem truncateDigest_pend (s : State) : (truncateDigest s).pend = s.pend := rfl
@[simp] theorem truncateDigest_inbox (s : State) : (truncateDigest s).inbox = s.inbox := rfl
@[simp] theorem truncateDigest_readData (s : State) :
    (truncateDigest s).readData = s.readData := rfl

/-! ### `reduceTrunc` -/

@[simp] theorem reduceTrunc_inMax (s : State) : (reduceTrunc s).inMax = s.inMax := rfl
@[simp] theorem reduceTrunc_overrun (s : State) : (reduceTrunc s).overrun = s.overrun := rfl
@[simp] theorem reduceTrunc_errCode (s : State) : (reduceTrunc s).errCode = s.errCode := rfl
@[simp] theorem reduceTrunc_errChar (s : State) : (reduceTrunc s).errChar = s.errChar := rfl
@[simp] theorem reduceTrunc_errPos (s : State) : (reduceTrunc s).errPos = s.errPos := rfl
@[simp] theorem reduceTrunc_lookupValue (s : State) :
    (reduceTrunc s).lookupValue = s.lookupValue := rfl
@[simp] theorem reduceTrunc_lookupValid (s : State) :
    (reduceTrunc s).lookupValid = s.lookupValid := rfl
@[simp] theorem reduceTrunc_inLen (s : State) : (reduceTrunc s).inLen = s.inLen := rfl
@[simp] theorem reduceTrunc_inBuf (s : State) : (reduceTrunc s).inBuf = s.inBuf := rfl
@[simp] theorem reduceTrunc_dec (s : State) : (reduceTrunc s).dec = s.dec := rfl
@[simp] theorem reduceTrunc_timeMs (s : State) : (reduceTrunc s).timeMs = s.timeMs := rfl
@[simp] theorem reduceTrunc_timeStep (s : State) : (reduceTrunc s).timeStep = s.timeStep := rfl
@[simp] theorem reduceTrunc_timeOffset (s : State) :
    (reduceTrunc s).timeOffset = s.timeOffset := rfl
@[simp] theorem reduceTrunc_ctr (s : State) : (reduceTrunc s).ctr = s.ctr := rfl
@[simp] theorem reduceTrunc_msg (s : State) : (reduceTrunc s).msg = s.msg := rfl
@[simp] theorem reduceTrunc_digest (s : State) : (reduceTrunc s).digest = s.digest := rfl
@[simp] theorem reduceTrunc_offset (s : State) : (reduceTrunc s).offset = s.offset := rfl
@[simp] theorem reduceTrunc_trunc (s : State) : (reduceTrunc s).trunc = s.trunc := rfl
@[simp] theorem reduceTrunc_codeBin (s : State) :
    (reduceTrunc s).codeBin = BitVec.ofNat 20 (s.trunc.toNat % 1000000) := rfl
@[simp] theorem reduceTrunc_codeAscii (s : State) : (reduceTrunc s).codeAscii = s.codeAscii := rfl
@[simp] theorem reduceTrunc_pend (s : State) : (reduceTrunc s).pend = s.pend := rfl
@[simp] theorem reduceTrunc_inbox (s : State) : (reduceTrunc s).inbox = s.inbox := rfl
@[simp] theorem reduceTrunc_readData (s : State) : (reduceTrunc s).readData = s.readData := rfl

/-! ### `formatCode` -/

@[simp] theorem formatCode_inMax (s : State) : (formatCode s).inMax = s.inMax := rfl
@[simp] theorem formatCode_overrun (s : State) : (formatCode s).overrun = s.overrun := rfl
@[simp] theorem formatCode_errCode (s : State) : (formatCode s).errCode = s.errCode := rfl
@[simp] theorem formatCode_errChar (s : State) : (formatCode s).errChar = s.errChar := rfl
@[simp] theorem formatCode_errPos (s : State) : (formatCode s).errPos = s.errPos := rfl
@[simp] theorem formatCode_lookupValue (s : State) :
    (formatCode s).lookupValue = s.lookupValue := rfl
@[simp] theorem formatCode_lookupValid (s : State) :
    (formatCode s).lookupValid = s.lookupValid := rfl
@[simp] theorem formatCode_inLen (s : State) : (formatCode s).inLen = s.inLen := rfl
@[simp] theorem formatCode_inBuf (s : State) : (formatCode s).inBuf = s.inBuf := rfl
@[simp] theorem formatCode_dec (s : State) : (formatCode s).dec = s.dec := rfl
@[simp] theorem formatCode_timeMs (s : State) : (formatCode s).timeMs = s.timeMs := rfl
@[simp] theorem formatCode_timeStep (s : State) : (formatCode s).timeStep = s.timeStep := rfl
@[simp] theorem formatCode_timeOffset (s : State) : (formatCode s).timeOffset = s.timeOffset := rfl
@[simp] theorem formatCode_ctr (s : State) : (formatCode s).ctr = s.ctr := rfl
@[simp] theorem formatCode_msg (s : State) : (formatCode s).msg = s.msg := rfl
@[simp] theorem formatCode_digest (s : State) : (formatCode s).digest = s.digest := rfl
@[simp] theorem formatCode_offset (s : State) : (formatCode s).offset = s.offset := rfl
@[simp] theorem formatCode_trunc (s : State) : (formatCode s).trunc = s.trunc := rfl
@[simp] theorem formatCode_codeBin (s : State) : (formatCode s).codeBin = s.codeBin := rfl
@[simp] theorem formatCode_codeAscii (s : State) :
    (formatCode s).codeAscii = Vector.ofFn fun k : Fin 6 => asciiDigit s.codeBin.toNat k.val := rfl
@[simp] theorem formatCode_pend (s : State) : (formatCode s).pend = s.pend := rfl
@[simp] theorem formatCode_inbox (s : State) : (formatCode s).inbox = s.inbox := rfl
@[simp] theorem formatCode_readData (s : State) : (formatCode s).readData = s.readData := rfl

/-! ### `respondHmac` -/

@[simp] theorem respondHmac_inMax (d : Digest) (s : State) :
    (respondHmac d s).inMax = s.inMax := rfl
@[simp] theorem respondHmac_overrun (d : Digest) (s : State) :
    (respondHmac d s).overrun = s.overrun := rfl
@[simp] theorem respondHmac_errCode (d : Digest) (s : State) :
    (respondHmac d s).errCode = s.errCode := rfl
@[simp] theorem respondHmac_errChar (d : Digest) (s : State) :
    (respondHmac d s).errChar = s.errChar := rfl
@[simp] theorem respondHmac_errPos (d : Digest) (s : State) :
    (respondHmac d s).errPos = s.errPos := rfl
@[simp] theorem respondHmac_lookupValue (d : Digest) (s : State) :
    (respondHmac d s).lookupValue = s.lookupValue := rfl
@[simp] theorem respondHmac_lookupValid (d : Digest) (s : State) :
    (respondHmac d s).lookupValid = s.lookupValid := rfl
@[simp] theorem respondHmac_inLen (d : Digest) (s : State) :
    (respondHmac d s).inLen = s.inLen := rfl
@[simp] theorem respondHmac_inBuf (d : Digest) (s : State) :
    (respondHmac d s).inBuf = s.inBuf := rfl
@[simp] theorem respondHmac_dec (d : Digest) (s : State) : (respondHmac d s).dec = s.dec := rfl
@[simp] theorem respondHmac_timeMs (d : Digest) (s : State) :
    (respondHmac d s).timeMs = s.timeMs := rfl
@[simp] theorem respondHmac_timeStep (d : Digest) (s : State) :
    (respondHmac d s).timeStep = s.timeStep := rfl
@[simp] theorem respondHmac_timeOffset (d : Digest) (s : State) :
    (respondHmac d s).timeOffset = s.timeOffset := rfl
@[simp] theorem respondHmac_ctr (d : Digest) (s : State) : (respondHmac d s).ctr = s.ctr := rfl
@[simp] theorem respondHmac_msg (d : Digest) (s : State) : (respondHmac d s).msg = s.msg := rfl
@[simp] theorem respondHmac_digest (d : Digest) (s : State) : (respondHmac d s).digest = d := rfl
@[simp] theorem respondHmac_offset (d : Digest) (s : State) :
    (respondHmac d s).offset = s.offset := rfl
@[simp] theorem respondHmac_trunc (d : Digest) (s : State) :
    (respondHmac d s).trunc = s.trunc := rfl
@[simp] theorem respondHmac_codeBin (d : Digest) (s : State) :
    (respondHmac d s).codeBin = s.codeBin := rfl
@[simp] theorem respondHmac_codeAscii (d : Digest) (s : State) :
    (respondHmac d s).codeAscii = s.codeAscii := rfl
@[simp] theorem respondHmac_pend (d : Digest) (s : State) : (respondHmac d s).pend = .none := rfl
@[simp] theorem respondHmac_inbox (d : Digest) (s : State) :
    (respondHmac d s).inbox = s.inbox := rfl
@[simp] theorem respondHmac_readData (d : Digest) (s : State) :
    (respondHmac d s).readData = s.readData := rfl

end Sys2Proof.Machine
end

