-- ==== Sys2Proof/Laws/Bus.lean ====
section
/-! SUPPORT. What a host write can do, said once, and the views of `STATUS`. -/

namespace Sys2Proof.Machine

@[simp] theorem busy_eq_false_iff (s : State) : busy s = false ↔ s.pend = .none := by
  simp [busy]

theorem busy_eq_true_iff (s : State) : busy s = true ↔ s.pend ≠ .none := by
  simp [busy]

theorem hostWrite_status (v : Word) (s : State) :
    hostWrite statusAddr v s = .next (writeStatus v s) := by
  simp [hostWrite]

theorem hostWrite_busy {a : Addr} {s : State} (v : Word) (ha : a ≠ statusAddr)
    (hb : s.pend ≠ .none) : hostWrite a v s = .next (dropWrite s) := by
  simp [hostWrite, ha, (busy_eq_true_iff s).2 hb]

theorem hostWrite_cmd {s : State} (w : Word) (hb : s.pend = .none) :
    hostWrite cmdAddr w s = runCommand w s := by
  simp [hostWrite, (busy_eq_false_iff s).2 hb, show cmdAddr ≠ statusAddr by decide]

theorem hostWrite_reg {a : Addr} {s : State} (v : Word) (ha : a ≠ statusAddr) (hc : a ≠ cmdAddr)
    (hb : s.pend = .none) : hostWrite a v s = .next (writeReg v s (regAt s a)) := by
  simp [hostWrite, ha, hc, (busy_eq_false_iff s).2 hb]

/-- What a host write does: one of these four. -/
theorem hostWrite_cases (a : Addr) (v : Word) (s : State) :
    (a = statusAddr ∧ hostWrite a v s = .next (writeStatus v s)) ∨
    (a ≠ statusAddr ∧ s.pend ≠ .none ∧ hostWrite a v s = .next (dropWrite s)) ∨
    (a = cmdAddr ∧ s.pend = .none ∧ hostWrite a v s = runCommand v s) ∨
    (a ≠ statusAddr ∧ a ≠ cmdAddr ∧ s.pend = .none ∧
      hostWrite a v s = .next (writeReg v s (regAt s a))) := by
  by_cases ha : a = statusAddr
  · subst ha; exact .inl ⟨rfl, hostWrite_status v s⟩
  by_cases hb : s.pend = .none
  · by_cases hc : a = cmdAddr
    · subst hc; exact .inr (.inr (.inl ⟨rfl, hb, hostWrite_cmd v hb⟩))
    · exact .inr (.inr (.inr ⟨ha, hc, hb, hostWrite_reg v ha hc hb⟩))
  · exact .inr (.inl ⟨ha, hb, hostWrite_busy v ha hb⟩)

/-- A register write changes only the fields a host may write: `IN_LEN`, `IN_BUF`, `TIME_MS`,
`TIME_STEP`, `TIME_OFFSET`, `CTR` and `DIGEST`. -/
theorem writeReg_eq (v : Word) (s : State) (r : Reg) :
    writeReg v s r =
      { s with
        inLen := (writeReg v s r).inLen, inBuf := (writeReg v s r).inBuf
        timeMs := (writeReg v s r).timeMs, timeStep := (writeReg v s r).timeStep
        timeOffset := (writeReg v s r).timeOffset, ctr := (writeReg v s r).ctr
        digest := (writeReg v s r).digest } := by
  cases r <;> rfl

/-- The address map does not depend on anything but `IN_MAX`. -/
theorem regAt_congr {s t : State} (h : s.inMax = t.inMax) (a : Addr) : regAt s a = regAt t a := by
  unfold regAt keyMax
  rw [h]

theorem singleReg_ne_inBuf (n i : Nat) : singleReg n ≠ .inBuf i := by
  unfold singleReg; split <;> exact Reg.noConfusion

theorem byteReg_ne_inBuf (n i : Nat) : byteReg n ≠ .inBuf i := by
  unfold byteReg
  split
  · exact Reg.noConfusion
  · split
    · exact Reg.noConfusion
    · split
      · exact Reg.noConfusion
      · exact singleReg_ne_inBuf n i

/-- `IN_BUF[i]` is named only inside its window. -/
theorem regAt_inBuf {s : State} {a : Addr} {i : Nat} (h : regAt s a = .inBuf i) :
    a.toNat = 0x400 + i ∧ i < s.inMax := by
  unfold regAt at h
  by_cases h1 : a.toNat < 0x400
  · rw [if_pos h1] at h; exact absurd h (byteReg_ne_inBuf _ _)
  rw [if_neg h1] at h
  by_cases h2 : a.toNat < 0x800
  · rw [if_pos h2] at h
    by_cases h3 : a.toNat - 0x400 < s.inMax
    · rw [if_pos h3] at h
      have hi := Reg.inBuf.inj h
      exact ⟨by omega, by omega⟩
    · rw [if_neg h3] at h; cases h
  rw [if_neg h2] at h
  split at h
  · split at h <;> cases h
  · cases h

/-! ### The address map is one to one -/

/-- The word address of a mapped register (R62). -/
def addrOf : Reg → Nat
  | .cmd => 0x000 | .status => 0x001 | .errChar => 0x002 | .errPos => 0x003 | .lookup => 0x004
  | .param => 0x005 | .inLen => 0x008 | .decNchars => 0x009 | .decBits => 0x00A | .decAcc => 0x00B
  | .keyLen => 0x00C | .timeMsLo => 0x010 | .timeMsHi => 0x011 | .timeStep => 0x012
  | .timeOffset => 0x013 | .ctrLo => 0x014 | .ctrHi => 0x015 | .msg k => 0x018 + k
  | .digest k => 0x020 + k | .offset => 0x034 | .trunc => 0x035 | .codeBin => 0x036
  | .codeAscii k => 0x038 + k | .inBuf i => 0x400 + i | .keyBuf i => 0x800 + i
  | .unmapped => 0x1000

theorem addrOf_byteReg :
    ∀ n, n < 0x400 → byteReg n = .unmapped ∨ addrOf (byteReg n) = n := by
  decide +kernel

/-- A mapped address is the address of the register it names. -/
theorem addrOf_regAt (s : State) (a : Addr) :
    regAt s a = .unmapped ∨ addrOf (regAt s a) = a.toNat := by
  unfold regAt
  by_cases h1 : a.toNat < 0x400
  · rw [if_pos h1]; exact addrOf_byteReg _ h1
  rw [if_neg h1]
  by_cases h2 : a.toNat < 0x800
  · rw [if_pos h2]
    split
    · exact .inr (Nat.add_sub_cancel' (by omega))
    · exact .inl rfl
  rw [if_neg h2]
  split
  · split
    · exact .inr (Nat.add_sub_cancel' (by omega))
    · exact .inl rfl
  · exact .inl rfl

/-- Two addresses that name the same mapped register are the same. -/
theorem regAt_inj {s : State} {a b : Addr} (h : regAt s a = regAt s b)
    (hu : regAt s a ≠ .unmapped) : a = b := by
  have ha := (addrOf_regAt s a).resolve_left hu
  have hb := (addrOf_regAt s b).resolve_left (h ▸ hu)
  exact BitVec.eq_of_toNat_eq (by rw [← ha, ← hb, h])

end Sys2Proof.Machine
end

