-- ==== Sys2Proof/Laws/Decode.lean ====
section
/-! SUPPORT. The numeric values of the two word formats, and the inversions of the opcode maps. -/

namespace Sys2Proof

theorem wordN_toNat (op : Byte) : (wordN op).toNat = op.toNat := by
  have h : wordN op = BitVec.append 0#24 op := rfl
  rw [h]
  show (0#24 ++ op).toNat = _
  rw [BitVec.toNat_append]
  simp

theorem wordC_toNat (op c : Byte) : (wordC op c).toNat = c.toNat * 256 + op.toNat := by
  show ((0#16 ++ c : BitVec (16 + 8)) ++ op).toNat = _
  rw [BitVec.toNat_append, BitVec.toNat_append,
    ← Nat.shiftLeft_add_eq_or_of_lt (show op.toNat < 2 ^ 8 from op.isLt)]
  simp [Nat.shiftLeft_eq]

/-- The word of a format-N command is its opcode alone. -/
theorem encode_of_formatN {op : Byte} {i : Instr} (h : formatN op = some i) :
    encode i = wordN op := by
  unfold formatN at h
  repeat' split at h
  all_goals first | (cases h; done) | (cases h; subst op; rfl)

/-- The word of a format-C command is its opcode and its character. -/
theorem encode_of_formatC {op c : Byte} {i : Instr} (h : formatC op c = some i) :
    encode i = wordC op c := by
  unfold formatC at h
  repeat' split at h
  all_goals first | (cases h; done) | (cases h; subst op; rfl)

end Sys2Proof
end

