-- ==== Sys2Proof/Laws/PerInstr.lean ====
section
/-! SUPPORT. Statements made of every command as syntax, one lemma per constructor. -/

namespace Sys2Proof.Laws.RowOfWord

/-- The word of a command selects the row of the opcode map that carries its mnemonic (R94). -/
def Statement (i : Instr) : Prop :=
  ∃ r ∈ opcodeTable, r.mnemonic = i.mnemonic ∧ r.selects (encode i) = true

theorem wordC_select : ∀ c : Byte, wordC 0x02 c &&& 0xFFFF00FF = 0x00000002 ∧
    wordC 0x03 c &&& 0xFFFF00FF = 0x00000003 := by
  decide +kernel

theorem decClear : Statement .decClear := by unfold Statement; decide
theorem decLookup (c : Byte) : Statement (.decLookup c) :=
  ⟨⟨"DEC_LOOKUP", 0x00000002, 0xFFFF00FF⟩, by decide, rfl,
    by simpa [OpcodeRow.selects, encode] using (wordC_select c).1⟩
theorem decPush (c : Byte) : Statement (.decPush c) :=
  ⟨⟨"DEC_PUSH", 0x00000003, 0xFFFF00FF⟩, by decide, rfl,
    by simpa [OpcodeRow.selects, encode] using (wordC_select c).2⟩
theorem decString : Statement .decString := by unfold Statement; decide
theorem ctrDerive : Statement .ctrDerive := by unfold Statement; decide
theorem ctrEncode : Statement .ctrEncode := by unfold Statement; decide
theorem hmacStart : Statement .hmacStart := by unfold Statement; decide
theorem truncate : Statement .truncate := by unfold Statement; decide
theorem mod1m : Statement .mod1m := by unfold Statement; decide
theorem format : Statement .format := by unfold Statement; decide
theorem generate : Statement .generate := by unfold Statement; decide

end Sys2Proof.Laws.RowOfWord
end

