-- ==== Sys2Proof/Laws/Step.lean ====
section
/-! SUPPORT. What one step can do, said once: a case for each kind of input, and a case for each way
a command can end. -/

namespace Sys2Proof.Machine

theorem step_idle {s : State} (h : s.inbox = []) : step s = .next s := by
  simp [step, h]

theorem step_hostRead {s : State} {a : Addr} {rest : List Input}
    (h : s.inbox = .hostRead a :: rest) : step s = .next (hostRead a { s with inbox := rest }) := by
  simp [step, h]

theorem step_hostWrite {s : State} {a : Addr} {v : Word} {rest : List Input}
    (h : s.inbox = .hostWrite a v :: rest) : step s = hostWrite a v { s with inbox := rest } := by
  simp [step, h]

/-- A command word written while nothing is pending runs. -/
theorem step_command {s : State} {w : Word} {rest : List Input}
    (h : s.inbox = .hostWrite cmdAddr w :: rest) (hp : s.pend = .none) :
    step s = runCommand w { s with inbox := rest } := by
  rw [step_hostWrite h]
  exact hostWrite_cmd w hp

theorem step_engineRespond {s : State} {rest : List Input} (h : s.inbox = .engineRespond :: rest) :
    step s = engineRespond { s with inbox := rest } := by
  simp [step, h]

theorem step_reset {s : State} {rest : List Input} (h : s.inbox = .reset :: rest) :
    step s = .next (resetBlock { s with inbox := rest }) := by
  simp [step, h]

/-- The engine's response answers a next state exactly when a request is pending. -/
theorem engineResponse_cases (d : Digest) (s : State) :
    (s.pend = .none ∧ engineResponse d s = .refused .responseNotEnabled) ∨
    (s.pend = .hmac ∧ engineResponse d s = .next (respondHmac d s)) ∨
    (s.pend = .gen ∧ engineResponse d s = .next (respondGen d s)) := by
  unfold engineResponse
  cases s.pend <;> simp

/-- What `raise` leaves: the error fields may change and nothing else does. -/
theorem raise_eq (e : CmdError) (s : State) :
    raise e s =
      { s with
        errCode := errCodeOf e, errChar := (raise e s).errChar, errPos := (raise e s).errPos } := by
  cases e <;> rfl

theorem errCodeOf_ne_ok (e : CmdError) : errCodeOf e ≠ .ok := by
  cases e <;> simp [errCodeOf]

/-- How a command ends: it completes, it raises an error, or (`DEC_PUSH` in a state R48 excludes)
it faults. -/
theorem exec_cases (i : Instr) (s : State) :
    (∃ u, exec i s = .next (succeed u)) ∨ (∃ e, exec i s = .next (raise e s)) ∨
      (exec i s = .fault .keyBufRange ∧ ∃ c, i = .decPush c) := by
  cases i with
  | decClear => exact .inl ⟨_, rfl⟩
  | decLookup c =>
    simp only [exec, execDecLookup]
    split <;> exact .inl ⟨_, rfl⟩
  | decPush c =>
    simp only [exec, execDecPush]
    split
    · exact .inr (.inl ⟨_, rfl⟩)
    · split
      · exact .inr (.inl ⟨_, rfl⟩)
      · split
        · exact .inl ⟨_, rfl⟩
        · exact .inr (.inr ⟨rfl, c, rfl⟩)
  | decString =>
    simp only [exec, execDecString]
    split
    · exact .inr (.inl ⟨_, rfl⟩)
    · exact .inl ⟨_, rfl⟩
  | ctrDerive =>
    simp only [exec, execCtrDerive]
    split
    · exact .inr (.inl ⟨_, rfl⟩)
    · exact .inl ⟨_, rfl⟩
  | ctrEncode => exact .inl ⟨_, rfl⟩
  | hmacStart => exact .inl ⟨_, rfl⟩
  | truncate => exact .inl ⟨_, rfl⟩
  | mod1m => exact .inl ⟨_, rfl⟩
  | format => exact .inl ⟨_, rfl⟩
  | generate =>
    simp only [exec, execGenerate]
    split
    · exact .inr (.inl ⟨_, rfl⟩)
    · split
      · exact .inr (.inl ⟨_, rfl⟩)
      · exact .inl ⟨_, rfl⟩

end Sys2Proof.Machine
end

