-- ==== Sys2Proof/Tests/Slice0.lean ====
section
/-! SUPPORT. Tests. The expected values come from spec/95_test_vectors.md (the comment before each
names the row) and from the encodings of 30_encoding.md; the `witness_` theorems show states and
operands that meet the hypotheses of the statements. -/

namespace Sys2Proof.Tests

-- One kernel check after another: many at once take a thread, and its stack, each.
set_option Elab.async false

open Sys2Proof.Machine Sys2Proof.Claims

/-! ### Helpers -/

/-- The next state of an outcome, if it is one. -/
def next? : Host.Outcome State Fault Refusal → Option State
  | .next t => some t
  | .fault _ => none
  | .refused _ => none

/-- A buffer holding these bytes from index 0 on. -/
def bufferOf (bs : List Nat) : Memory :=
  (List.range bs.length).foldl (fun m i => Memory.write m i (BitVec.ofNat 8 (bs.getD i 0))) []

/-- The reset state after `LOADIN` of these bytes (R99). -/
def loaded (bs : List Nat) : State :=
  { State.reset with inBuf := bufferOf bs, inLen := BitVec.ofNat 16 bs.length }

/-- The decoder's registers as numbers: `DEC_NCHARS`, `DEC_BITS`, `DEC_ACC`, then the
key bytes. -/
def decoderView (s : State) : List Nat :=
  s.dec.nchars.toNat :: s.dec.bits.toNat :: s.dec.acc.toNat :: (hmacKey s).map BitVec.toNat

/-- The reset state with this decoder. -/
def withDec (n b a : Nat) (key : List Nat) : State :=
  { State.reset with
    dec := ⟨BitVec.ofNat 16 n, BitVec.ofNat 3 b, BitVec.ofNat 7 a, BitVec.ofNat 16 key.length,
      bufferOf key⟩ }

/-- The reset state with these time and configuration registers (decimal, signed). -/
def timed (ms step off : Int) : State :=
  { State.reset with
    timeMs := BitVec.ofInt 64 ms, timeStep := BitVec.ofInt 32 step,
    timeOffset := BitVec.ofInt 32 off }

/-- The ASCII bytes of `"GEZDGNBVGY3TQOJQGEZDGNBVGY3TQOJQ"` (P1 step 1). -/
def secret : List Nat :=
  [0x47, 0x45, 0x5A, 0x44, 0x47, 0x4E, 0x42, 0x56, 0x47, 0x59, 0x33, 0x54, 0x51, 0x4F, 0x4A, 0x51,
    0x47, 0x45, 0x5A, 0x44, 0x47, 0x4E, 0x42, 0x56, 0x47, 0x59, 0x33, 0x54, 0x51, 0x4F, 0x4A, 0x51]

/-- P1 just before `CMD GENERATE`: the secret and `TIME_MS` = 59000. -/
def p1 : State := { loaded secret with timeMs := 59000 }

/-- The digest of counter 1 (L2.6c). -/
def digest1 : Digest :=
  #v[0x75, 0xa4, 0x8a, 0x19, 0xd4, 0xcb, 0xe1, 0x00, 0x64, 0x4e, 0x8a, 0xc1, 0x39, 0x7e, 0xea, 0x74,
    0x7a, 0x2d, 0x33, 0xab]

/-- The reset state with a digest. -/
def digested (d : Digest) : State := { State.reset with digest := d }

/-- A state with a pending request. -/
def pending (p : Pend) : State := { State.reset with pend := p }

/-- The reset state with these inputs to come. -/
def fed (xs : List Input) : State := { State.reset with inbox := xs }

theorem read_zero_from {n : Nat} : ∀ {m : Memory}, m.all (fun c => decide (c.1 < n)) = true →
    ∀ i, n ≤ i → Memory.read m i = 0
  | [], _, _, _ => rfl
  | (k, v) :: rest, h, i, hi => by
    simp only [List.all_cons, Bool.and_eq_true, decide_eq_true_eq] at h
    have : k ≠ i := by omega
    simp [Memory.read, this, read_zero_from h.2 i hi]

/-- A check whose success shows `Inv`. -/
def invCheck (s : State) : Bool :=
  decide (1 ≤ s.inMax) && decide (s.inMax ≤ 1024) && decide (s.dec.nchars.toNat ≤ s.inMax) &&
  decide (s.dec.bits.toNat = 5 * s.dec.nchars.toNat % 8) &&
  decide (s.dec.keyLen.toNat = 5 * s.dec.nchars.toNat / 8) &&
  decide (s.dec.acc.toNat < 2 ^ s.dec.bits.toNat) &&
  s.dec.keyBuf.all (fun c => decide (c.1 < s.dec.keyLen.toNat)) &&
  decide (s.codeBin.toNat ≤ 999999) && Memory.wf s.inBuf && Memory.wf s.dec.keyBuf &&
  s.inBuf.all (fun c => decide (c.1 < s.inMax))

theorem inv_of_check {s : State} (h : invCheck s = true) : Inv s := by
  simp only [invCheck, Bool.and_eq_true, decide_eq_true_eq] at h
  obtain ⟨⟨⟨⟨⟨⟨⟨⟨⟨⟨h1, h2⟩, h3⟩, h4⟩, h5⟩, h6⟩, h7⟩, h8⟩, h9⟩, h10⟩, h11⟩ := h
  exact ⟨⟨h1, h2⟩, ⟨h3, h4, h5, h6, read_zero_from h7⟩, h8, ⟨h9, h10, read_zero_from h11⟩⟩

/-! ### Well-formedness and decoding -/

/-- R96: a word the check refuses for each reason: an unassigned opcode, a reserved bit of format N
and of format C (L2.11); every word of a command passes it. -/
theorem test_wellFormedWord_smoke :
    wellFormedWord 0x00000000 = false ∧ wellFormedWord 0x00000005 = false ∧
    wellFormedWord 0x00000120 = false ∧ wellFormedWord 0x80000020 = false ∧
    wellFormedWord 0x00010003 = false ∧ wellFormedWord 0x0000FF03 = true ∧
    wellFormedWord 0x00000020 = true := by decide

/-- No operand is ill formed: the character is any byte (R92). -/
theorem test_wellFormed_boundary :
    Instr.wellFormed (.decPush 0x00) = true ∧ Instr.wellFormed (.decLookup 0xFF) = true := by decide

/-- Words written bit by bit from R91, R92 and R94 (L2.1, L2.2, L2.11). -/
theorem test_decode_words :
    decode 0b00000000000000000000000000000001#32 = .command .decClear ∧
    decode 0b00000000000000000111101000000010#32 = .command (.decLookup 0x7A) ∧
    decode 0b00000000000000000100011100000011#32 = .command (.decPush 0x47) ∧
    decode 0b00000000000000000000000000000100#32 = .command .decString ∧
    decode 0b00000000000000000000000000010000#32 = .command .ctrDerive ∧
    decode 0b00000000000000000000000000010001#32 = .command .ctrEncode ∧
    decode 0b00000000000000000000000000010010#32 = .command .hmacStart ∧
    decode 0b00000000000000000000000000010011#32 = .command .truncate ∧
    decode 0b00000000000000000000000000010100#32 = .command .mod1m ∧
    decode 0b00000000000000000000000000010101#32 = .command .format ∧
    decode 0b00000000000000000000000000100000#32 = .command .generate := by decide

/-- L2.11: illegal words, by reason. -/
theorem test_decode_illegal :
    decode 0x00000105 = .illegal (.unassignedOpcode 0x05) ∧
    decode 0x000000FF = .illegal (.unassignedOpcode 0xFF) ∧
    decode 0x00000120 = .illegal .reservedBits ∧
    decode 0x80000020 = .illegal .reservedBits ∧
    decode 0x00010003 = .illegal .reservedBits := by decide

/-- The host's entry for a table word, and what it refuses. -/
theorem test_decodeTableWord :
    decodeTableWord 32 0x4703 = some (.decPush 0x47) ∧ decodeTableWord 32 0x00000005 = none ∧
    decodeTableWord 40 0x100000001 = none := by decide

/-- The table's mnemonics are the rows' of R94. -/
theorem test_mnemonics_in_order :
    opcodeTable.map (·.mnemonic) =
      ["DEC_CLEAR", "DEC_LOOKUP", "DEC_PUSH", "DEC_STRING", "CTR_DERIVE", "CTR_ENCODE",
        "HMAC_START", "TRUNCATE", "MOD1M", "FORMAT", "GENERATE"] := by decide

/-! ### Commands -/

/-- L2.2f: after the pushes of L2.2b everything of the decoder is 0 and `ERR_POS` is kept. -/
theorem test_decClear :
    (next? (exec .decClear { withDec 2 2 0 [0x31] with errCode := .lengthError, errPos := 5 })).map
      (fun t => (decoderView t, Memory.read t.dec.keyBuf 0, t.errCode, t.errPos)) =
      some ([0, 0, 0], 0, .ok, 5) := by decide +kernel

/-- L2.1: `'z'` is valid, 25; 0xC1 is not folded and is invalid. -/
theorem test_decLookup :
    (next? (exec (.decLookup 0x7A) State.reset)).map (busRead · 0x004) = some 0x00000119 ∧
    (next? (exec (.decLookup 0xC1) State.reset)).map (busRead · 0x004) = some 0x00000000 := by
  decide +kernel

/-- L2.2a: `'W'` after three pushes, the fourth row. -/
theorem test_decPush_emits :
    (next? (exec (.decPush 0x57) (withDec 3 7 55 [0x66]))).map decoderView =
      some [4, 4, 6, 0x66, 0x6F] := by decide +kernel

/-- L2.2c, L2.2e: `'='` is invalid and leaves the decoder; the length is checked first. -/
theorem test_decPush_errors :
    (next? (exec (.decPush 0x3D) (withDec 5 1 0 [0x66, 0x6F, 0x6F]))).map
      (fun t => (busRead t 0x001, t.errChar, t.errPos, decoderView t)) =
      some (0x0100, 0x3D, 5, [5, 1, 0, 0x66, 0x6F, 0x6F]) ∧
    (next? (exec (.decPush 0x21) { withDec 1 5 31 [] with inMax := 1 })).map (busRead · 0x001) =
      some 0x0400 := by decide +kernel

/-- L2.3 rows 8 and 18: `"MZXW6YTBOI======"`, and `"MZ"` with a residual bit. -/
theorem test_decString :
    (next? (exec .decString (loaded [0x4D, 0x5A, 0x58, 0x57, 0x36, 0x59, 0x54, 0x42, 0x4F, 0x49,
        0x3D, 0x3D, 0x3D, 0x3D, 0x3D, 0x3D]))).map decoderView =
      some [10, 2, 0, 0x66, 0x6F, 0x6F, 0x62, 0x61, 0x72] ∧
    (next? (exec .decString (loaded [0x4D, 0x5A]))).map decoderView = some [2, 2, 1, 0x66] := by
  decide +kernel

/-- L2.3 rows 25 and 28: `"1NVALID!"`, and the inner `'='` of `"G=E="`. -/
theorem test_decString_errors :
    (next? (exec .decString
        (loaded [0x31, 0x4E, 0x56, 0x41, 0x4C, 0x49, 0x44, 0x21]))).map
      (fun t => (busRead t 0x001, t.errChar, t.errPos)) = some (0x0100, 0x31, 0) ∧
    (next? (exec .decString (loaded [0x47, 0x3D, 0x45, 0x3D]))).map
      (fun t => (busRead t 0x001, t.errChar, t.errPos)) = some (0x0100, 0x3D, 1) := by
  decide +kernel

/-- L2.4 rows 8, 14 and 16. -/
theorem test_ctrDerive :
    (next? (exec .ctrDerive (timed (-30001) 30 0))).map (·.ctr) = some 0xFFFFFFFFFFFFFFFE ∧
    (next? (exec .ctrDerive (timed 1700000000123 60 (-3600)))).map (·.ctr) =
      some 0x0000000001B054D9 ∧
    (next? (exec .ctrDerive (timed (-2 ^ 63) 1 (-2 ^ 31)))).map (·.ctr) =
      some 0xFFDF3B63DA1CAC08 := by decide +kernel

/-- L2.4 rows 18 and 20: a step that is not positive; the counter is kept. -/
theorem test_ctrDerive_errors :
    (next? (exec .ctrDerive { timed 59000 0 0 with ctr := 0xAA })).map
      (fun t => (t.ctr, busRead t 0x001)) = some (0xAA, 0x0200) ∧
    (next? (exec .ctrDerive { timed 59000 (-2 ^ 31) 0 with ctr := 0xAA })).map
      (fun t => (t.ctr, busRead t 0x001)) = some (0xAA, 0x0200) := by decide +kernel

/-- L2.5, fifth row. -/
theorem test_ctrEncode :
    (next? (exec .ctrEncode { State.reset with ctr := 0x0102030405060708 })).map (·.msg) =
      some #v[0x01, 0x02, 0x03, 0x04, 0x05, 0x06, 0x07, 0x08] := by decide +kernel

/-- L2.6a, and L2.6b with the digest of counter 1. -/
theorem test_hmacStart :
    (next? (exec .hmacStart State.reset)).map (busRead · 0x001) = some 0x0005 ∧
    (next? (engineResponse digest1 (pending .hmac))).map
      (fun t => (busRead t 0x001, t.digest, t.trunc)) = some (0, digest1, 0) := by decide +kernel

/-- L2.7 rows 2 and 13: counter 1, and a window whose only set bit is bit 31. -/
theorem test_truncate :
    (next? (exec .truncate (digested digest1))).map (fun t => (t.offset, t.trunc)) =
      some (11, 0x41397EEA) ∧
    (next? (exec .truncate (digested ((Vector.replicate 20 0).set 0 0x80)))).map
      (fun t => (t.offset, t.trunc)) = some (0, 0) := by decide +kernel

/-- L2.7 row 11: offset 15 reads bytes 15 to 18. -/
theorem test_truncate_last_window :
    (next? (exec .truncate (digested
        #v[0, 1, 2, 3, 4, 5, 6, 7, 8, 9, 10, 11, 12, 13, 14, 15, 16, 17, 18, 0x1f]))).map
      (fun t => (t.offset, t.trunc)) = some (15, 0x0F101112) := by decide +kernel

/-- L2.8, the rows 1000000 and 2147483647. -/
theorem test_mod1m :
    (next? (exec .mod1m { State.reset with trunc := 1000000 })).map (·.codeBin.toNat) = some 0 ∧
    (next? (exec .mod1m { State.reset with trunc := 2147483647 })).map (·.codeBin.toNat) =
      some 483647 := by decide +kernel

/-- L2.9, the rows 42 and 81804. -/
theorem test_format :
    (next? (exec .format { State.reset with codeBin := 42 })).map (·.codeAscii) =
      some #v[0x30, 0x30, 0x30, 0x30, 0x34, 0x32] ∧
    (next? (exec .format { State.reset with codeBin := 81804 })).map (·.codeAscii) =
      some #v[0x30, 0x38, 0x31, 0x38, 0x30, 0x34] := by decide +kernel

/-- P1 step 5: the first phase of `GENERATE`. -/
theorem test_generate_first :
    (next? (exec .generate p1)).map
      (fun t => (t.ctr, t.msg, decoderView t, busRead t 0x001)) =
      some (1, #v[0, 0, 0, 0, 0, 0, 0, 1],
        [32, 0, 0, 0x31, 0x32, 0x33, 0x34, 0x35, 0x36, 0x37, 0x38, 0x39, 0x30, 0x31, 0x32, 0x33,
          0x34, 0x35, 0x36, 0x37, 0x38, 0x39, 0x30], 0x0009) := by decide +kernel

/-- P1 step 6: the second phase, with the digest of counter 1: `"287082"`. -/
theorem test_generate_second :
    (next? (engineResponse digest1 { p1 with pend := .gen })).map
      (fun t => (t.offset, t.trunc, t.codeBin.toNat, t.codeAscii, busRead t 0x001)) =
      some (11, 0x41397EEA, 287082, #v[0x32, 0x38, 0x37, 0x30, 0x38, 0x32], 0) := by decide +kernel

/-! ### The bus and the step -/

/-- L2.12: a `CMD` write while GEN is pending, then `WR STATUS, 2`, then `WR STATUS, 1`. -/
theorem test_busy_and_overrun :
    (next? (hostWrite 0x000 0x00000001 (pending .gen))).map (busRead · 0x001) = some 0x000B ∧
    (next? (hostWrite 0x001 0x00000002 { pending .gen with overrun := true })).map
      (busRead · 0x001) = some 0x0009 ∧
    (next? (hostWrite 0x001 0x00000001 { pending .gen with overrun := true })).map
      (busRead · 0x001) = some 0x000B := by decide +kernel

/-- L2.12: `WR KEY_LEN, 5` is ignored and `WR DIGEST[0], 0x1FF` stores 0xFF; L2.3a: `IN_LEN` takes
16 bits; R29: `PARAM` at the default parameters. -/
theorem test_bus_writes :
    (next? (hostWrite 0x00C 5 State.reset)).map (busRead · 0x00C) = some 0 ∧
    (next? (hostWrite 0x020 0x000001FF State.reset)).map (busRead · 0x020) = some 0xFF ∧
    (next? (hostWrite 0x008 0x00012345 State.reset)).map (busRead · 0x008) = some 0x2345 ∧
    busRead State.reset 0x005 = 0x00A00100 ∧ busRead State.reset 0x012 = 0x1E := by
  decide +kernel

/-- P1 step 2 (L2.10's last row): the two halves of `TIME_MS`, each by one step. -/
theorem test_step_writes_halves :
    (next? (step (fed [.hostWrite 0x010 0x9CE54000]))).map (·.timeMs) = some 0x000000009CE54000 ∧
    (next? (step (fed [.hostWrite 0x011 0x00001230]))).map (·.timeMs) = some 0x0000123000000000 := by
  decide +kernel

/-- P2 step 11: `WR CMD, 0` gives `STATUS` = 0x0300 and keeps `ERR_CHAR`. -/
theorem test_step_illegal :
    (next? (step { fed [.hostWrite 0x000 0x00000000] with errChar := 0x3D })).map
      (fun t => (busRead t 0x001, t.errChar)) = some (0x0300, 0x3D) := by decide +kernel

/-- P7: a reset while a request is pending. -/
theorem test_step_reset :
    (next? (step { p1 with pend := .gen, ctr := 1, inbox := [.reset] })) = some State.reset := by
  decide +kernel

/-- The host's placement runs the word's command as the very next step: `DEC_PUSH 'G'` (L2.2b). -/
theorem test_withFetchWord :
    (next? (step (State.reset.withFetchWord 32 0x4703))).map decoderView = some [1, 5, 6] := by
  decide +kernel

/-- The RFC 4648 encodings of `"f"`, `"fo"`, `"foo"`, `"foob"`, `"fooba"` (L2.3 rows 3 to 7). -/
theorem test_b32Encode :
    (b32Encode [0x66]).map BitVec.toNat = [0x4D, 0x59, 0x3D, 0x3D, 0x3D, 0x3D, 0x3D, 0x3D] ∧
    (b32Encode [0x66, 0x6F]).map BitVec.toNat =
      [0x4D, 0x5A, 0x58, 0x51, 0x3D, 0x3D, 0x3D, 0x3D] ∧
    (b32Encode [0x66, 0x6F, 0x6F]).map BitVec.toNat =
      [0x4D, 0x5A, 0x58, 0x57, 0x36, 0x3D, 0x3D, 0x3D] ∧
    (b32Encode [0x66, 0x6F, 0x6F, 0x62]).map BitVec.toNat =
      [0x4D, 0x5A, 0x58, 0x57, 0x36, 0x59, 0x51, 0x3D] ∧
    (b32Encode [0x66, 0x6F, 0x6F, 0x62, 0x61]).map BitVec.toNat =
      [0x4D, 0x5A, 0x58, 0x57, 0x36, 0x59, 0x54, 0x42] := by decide +kernel

/-! ### Witnesses: states and operands that meet the hypotheses of the statements -/

theorem exists_next {o : Host.Outcome State Fault Refusal} {P : State → Prop} [DecidablePred P]
    (h : (next? o).any (fun t => decide (P t)) = true) : ∃ t, o = .next t ∧ P t := by
  cases o with
  | next t => exact ⟨t, rfl, by simpa [next?] using h⟩
  | fault f => simp [next?] at h
  | refused r => simp [next?] at h

/-- The reset state with `IN_MAX` = 1 and a decoder that is full. -/
def full : State := { withDec 1 5 31 [] with inMax := 1 }

/-- A write of a command word to come. -/
def cmd (w : Word) : State := fed [.hostWrite cmdAddr w]

theorem witness_StepRunsDecodedCommand :
    (cmd 0x4703).inbox = .hostWrite cmdAddr 0x4703 :: [] ∧ (cmd 0x4703).pend = .none ∧
    decode 0x4703 = .command (.decPush 0x47) := by decide

theorem witness_IllegalWordChangesOnlyErrCode :
    (cmd 0x00010003).inbox = .hostWrite cmdAddr 0x00010003 :: [] ∧
    (cmd 0x00010003).pend = .none ∧
    (∀ r ∈ opcodeTable, (0x00010003 : Word) &&& r.mask ≠ r.value) := by decide

theorem witness_DecodeAgreesWithOpcodeTable :
    (∃ r ∈ opcodeTable, (0x0000FF03 : Word) &&& r.mask = r.value) ∧
    decode 0x0000FF03 = .command (.decPush 0xFF) := by decide

theorem witness_EncodeOfDecode : decode 0x00007A02 = .command (.decLookup 0x7A) := by decide

theorem witness_EveryStepKeepsInvariants :
    Inv (cmd 0x4703) ∧ ∃ t, step (cmd 0x4703) = .next t ∧ t ≠ cmd 0x4703 :=
  ⟨inv_of_check (by decide +kernel), exists_next (by decide +kernel)⟩

theorem witness_ResetMeetsInvariants :
    ParamLegal { State.reset with inMax := 1 } ∧ ParamLegal { State.reset with inMax := 1024 } := by
  simp [ParamLegal, Config.inMaxLimit]

theorem witness_EnabledStepsComplete_enabled :
    Inv (cmd 0x20) ∧ InputEnabled (cmd 0x20) :=
  ⟨inv_of_check (by decide +kernel), by intro _; decide⟩

theorem witness_EnabledStepsComplete_notEnabled :
    Inv (fed [.engineRespond]) ∧ ¬ InputEnabled (fed [.engineRespond]) :=
  ⟨inv_of_check (by decide +kernel), fun h => h rfl rfl⟩

/-- Every clause's premise on the command, and the one on the error code. -/
theorem witness_CommandsFrame :
    (∃ t, exec .generate p1 = .next t ∧ t.errCode ≠ .invalidCharacter) ∧
    (∃ t, exec .truncate p1 = .next t ∧ t.errCode ≠ .invalidCharacter) ∧
    (∃ t, exec (.decPush 0x47) (withDec 3 7 55 [0x66]) = .next t ∧
      (0 : Nat) ≠ (withDec 3 7 55 [0x66]).dec.keyLen.toNat) :=
  ⟨exists_next (by decide +kernel), exists_next (by decide +kernel),
    exists_next (by decide +kernel)⟩

theorem witness_FailedCommandHasNoOtherEffect :
    (∃ t, exec (.decPush 0x21) State.reset = .next t ∧ t.errCode ≠ .ok) ∧
    (∃ t, exec .ctrDerive (timed 0 0 0) = .next t ∧ t.errCode ≠ .ok ∧
      t.errCode ≠ .invalidCharacter) :=
  ⟨exists_next (by decide +kernel), exists_next (by decide +kernel)⟩

theorem witness_WhichCommandRaisesWhichError :
    (∃ t, exec .generate (timed 0 0 0) = .next t ∧ t.errCode = .invalidConfiguration) ∧
    (∃ t, exec (.decPush 0x41) full = .next t ∧ t.errCode = .lengthError) ∧
    (∃ t, exec .decString (loaded [0x21]) = .next t ∧ t.errCode = .invalidCharacter) ∧
    (∃ t, runCommand 0x05 State.reset = .next t ∧ t.errCode = .illegalCommand) ∧
    (∃ t, runCommand 0x01 State.reset = .next t ∧ t.errCode = .ok) :=
  ⟨exists_next (by decide +kernel), exists_next (by decide +kernel),
    exists_next (by decide +kernel), exists_next (by decide +kernel),
    exists_next (by decide +kernel)⟩

/-- R114 at the boundary: 2 + 5 bits hold, 3 + 5 emit, with the largest accumulators. -/
theorem witness_RepackStepKeepsEveryBit :
    ((2 : Nat) ≤ 7 ∧ 3 < 2 ^ 2 ∧ 31 ≤ 31 ∧ 2 + 5 < 8) ∧
    ((3 : Nat) ≤ 7 ∧ 7 < 2 ^ 3 ∧ 31 ≤ 31 ∧ 8 ≤ 3 + 5) ∧ ((7 : Nat) ≤ 7 ∧ 127 < 2 ^ 7 ∧ 8 ≤ 7 + 5) := by
  decide

theorem witness_DecPushResult_length : Inv full ∧ full.dec.nchars.toNat = full.inMax :=
  ⟨inv_of_check (by decide +kernel), by decide⟩

theorem witness_DecPushResult_invalid :
    Inv (withDec 5 1 0 [0x66, 0x6F, 0x6F]) ∧
    (withDec 5 1 0 [0x66, 0x6F, 0x6F]).dec.nchars.toNat ≠ 256 ∧ b32val (norm 0x3D) = none ∧
    b32val (norm 0x40) = none ∧ b32val (norm 0x60) = none ∧ b32val (norm 0x7B) = none :=
  ⟨inv_of_check (by decide +kernel), by decide, by decide, by decide, by decide, by decide⟩

/-- The two halves of the third clause, 2 + 5 and 3 + 5 bits. -/
theorem witness_DecPushResult_valid :
    (Inv (withDec 2 2 1 [0x66]) ∧ (withDec 2 2 1 [0x66]).dec.nchars.toNat ≠ 256 ∧
      (b32val (norm 0x58)).isSome = true ∧ (withDec 2 2 1 [0x66]).dec.bits.toNat + 5 < 8) ∧
    (Inv (withDec 7 3 3 [0x66, 0x6F, 0x6F, 0x62]) ∧
      (withDec 7 3 3 [0x66, 0x6F, 0x6F, 0x62]).dec.nchars.toNat ≠ 256 ∧
      (b32val (norm 0x42)).isSome = true ∧
      8 ≤ (withDec 7 3 3 [0x66, 0x6F, 0x6F, 0x62]).dec.bits.toNat + 5) :=
  ⟨⟨inv_of_check (by decide +kernel), by decide, by decide, by decide⟩,
    inv_of_check (by decide +kernel), by decide, by decide, by decide⟩

/-- `"GE="`: one position stripped, and two that stay. -/
theorem witness_PaddingStripRemovesExactlyTheSuffix :
    strippedLen (loaded [0x47, 0x45, 0x3D]).inBuf 3 ≤ 2 ∧
    0 < strippedLen (loaded [0x47, 0x45, 0x3D]).inBuf 3 ∧
    Machine.norm 0x3D = 0x3D := by decide

/-- The token fills the buffer, or is nothing but padding, or empty. -/
theorem witness_DecStringResult :
    ((loaded [0x47, 0x45]).inLen.toNat ≤ (loaded [0x47, 0x45]).inMax ∧
      AllValid (token (loaded [0x47, 0x45]))) ∧
    ({ loaded [0x47, 0x45] with inMax := 2 }.inLen.toNat ≤ 2 ∧
      AllValid (token { loaded [0x47, 0x45] with inMax := 2 })) ∧
    AllValid (token (loaded [0x3D])) ∧ AllValid (token State.reset) := by
  unfold AllValid; decide +kernel

theorem witness_DecStringErrors :
    { State.reset with inLen := 257 }.inMax < { State.reset with inLen := 257 }.inLen.toNat ∧
    ((loaded [0x41, 0x42, 0x3D, 0x43]).inLen.toNat ≤ 256 ∧
      2 < strippedLen (loaded [0x41, 0x42, 0x3D, 0x43]).inBuf 4 ∧
      (∀ j, j < 2 → (b32val (norm
        (Memory.read (loaded [0x41, 0x42, 0x3D, 0x43]).inBuf j))).isSome = true) ∧
      b32val (norm (Memory.read (loaded [0x41, 0x42, 0x3D, 0x43]).inBuf 2)) = none) := by
  decide +kernel

/-- A token that decodes, one that is too long, and one with an invalid character after a valid
one. -/
theorem witness_DecStringEqualsPushes :
    (∃ c, exec .decClear (loaded [0x47, 0x45]) = .next c ∧ c.errCode = .ok) ∧
    (∃ t, exec .decString (loaded [0x47, 0x45]) = .next t ∧ t.errCode = .ok) ∧
    (∃ t, exec .decString { State.reset with inLen := 257 } = .next t ∧ t.errCode ≠ .ok) ∧
    (∃ t, exec .decString (loaded [0x47, 0x31]) = .next t ∧ t.errCode = .invalidCharacter) :=
  ⟨exists_next (by decide +kernel), exists_next (by decide +kernel),
    exists_next (by decide +kernel), exists_next (by decide +kernel)⟩

/-- The encoding of `"f"`. -/
theorem witness_Base32RoundTrip :
    (loaded [0x4D, 0x59, 0x3D, 0x3D, 0x3D, 0x3D, 0x3D, 0x3D]).inLen.toNat ≤ 256 ∧
    Memory.bytes (loaded [0x4D, 0x59, 0x3D, 0x3D, 0x3D, 0x3D, 0x3D, 0x3D]).inBuf 8 =
      b32Encode [0x66] := by decide +kernel

theorem witness_CtrDeriveResult :
    (timed 59000 0 0).timeStep.toInt ≤ 0 ∧ 0 < (timed 59000 1 0).timeStep.toInt ∧
    0 < (timed 59000 (2 ^ 31 - 1) 0).timeStep.toInt := by decide

/-- The extreme of R143 (L2.4 row 15). -/
theorem witness_CounterAlwaysFits :
    0 < (timed (2 ^ 63 - 1) 1 (2 ^ 31 - 1)).timeStep.toInt ∧
    ∃ t, exec .ctrDerive (timed (2 ^ 63 - 1) 1 (2 ^ 31 - 1)) = .next t ∧
      t.ctr = 0x0020C49C25E353F6 :=
  ⟨by decide, exists_next (by decide +kernel)⟩

theorem witness_CounterFormulasAgree : 1 ≤ (timed (-1) 1 0).timeStep.toInt := by decide

/-- One window (k = 1: 30000 and 59999), the next millisecond that starts a window (59999 and
60000) and one that does not (59000 and 59001), and a whole step (59000 and 89000). -/
theorem witness_CounterLaws :
    (∃ t, exec .ctrDerive (timed 59999 30 0) = .next t ∧ t.ctr = 1) ∧
    (∃ t, exec .ctrDerive (timed 60000 30 0) = .next t ∧ t.ctr = 2) ∧
    (1 ≤ (timed 59999 30 0).timeStep.toInt ∧
      (timed 59999 30 0).timeMs.toInt ≤ (timed 60000 30 0).timeMs.toInt ∧
      (timed 60000 30 0).timeMs.toInt = (timed 59999 30 0).timeMs.toInt + 1 ∧
      (1000 * (timed 59999 30 0).timeStep.toInt) ∣ timeT (timed 60000 30 0)) ∧
    ((timed 59001 30 0).timeMs.toInt = (timed 59000 30 0).timeMs.toInt + 1 ∧
      ¬ (1000 * (timed 59000 30 0).timeStep.toInt) ∣ timeT (timed 59001 30 0)) ∧
    (1000 * (timed 30000 30 0).timeStep.toInt * 1 ≤ timeT (timed 30000 30 0) ∧
      timeT (timed 30000 30 0) < 1000 * (timed 30000 30 0).timeStep.toInt * (1 + 1) ∧
      1000 * (timed 30000 30 0).timeStep.toInt * 1 ≤ timeT (timed 59999 30 0) ∧
      timeT (timed 59999 30 0) < 1000 * (timed 30000 30 0).timeStep.toInt * (1 + 1)) ∧
    (timed 89000 30 0).timeMs.toInt =
      (timed 59000 30 0).timeMs.toInt + 1000 * (timed 59000 30 0).timeStep.toInt :=
  ⟨exists_next (by decide +kernel), exists_next (by decide +kernel), by decide +kernel,
    by decide +kernel, by decide +kernel, by decide +kernel⟩

theorem witness_HostWrittenCounterIsEncoded : State.reset.pend = .none := by decide

theorem witness_EngineRespondToHmac :
    { pending .hmac with inbox := [.engineRespond] }.pend = .hmac ∧
    { pending .hmac with inbox := [.engineRespond] }.inbox = .engineRespond :: [] := by decide

theorem witness_FormatResult :
    { State.reset with codeBin := 999999 }.codeBin.toNat ≤ 999999 := by decide

theorem witness_GenerateFirstPhase :
    0 < p1.timeStep.toInt ∧ p1.inLen.toNat ≤ p1.inMax ∧ AllValid (token p1) := by
  unfold AllValid; decide +kernel

/-- L2.10a, rows 1, 3 and 5. -/
theorem witness_GenerateErrorPriority :
    (timed 0 0 0).timeStep.toInt ≤ 0 ∧
    (0 < { State.reset with inLen := 300 }.timeStep.toInt ∧
      { State.reset with inLen := 300 }.inMax < { State.reset with inLen := 300 }.inLen.toNat) ∧
    (0 < (loaded [0x31, 0x4E]).timeStep.toInt ∧ (loaded [0x31, 0x4E]).inLen.toNat ≤ 256 ∧
      0 < strippedLen (loaded [0x31, 0x4E]).inBuf 2 ∧
      b32val (norm (Memory.read (loaded [0x31, 0x4E]).inBuf 0)) = none) := by
  decide +kernel

theorem witness_GenerateSecondPhase :
    { p1 with pend := .gen, inbox := [.engineRespond] }.pend = .gen ∧
    { p1 with pend := .gen, inbox := [.engineRespond] }.inbox = .engineRespond :: [] := by decide

/-- A write to `STATUS` that clears `OVERRUN` and one that does not, busy. -/
theorem witness_StatusLayoutAndWrite :
    { pending .gen with inbox := [.hostWrite 0x001 2] }.inbox = .hostWrite 0x001 2 :: [] ∧
    { pending .gen with inbox := [.hostWrite 0x001 1] }.inbox = .hostWrite 0x001 1 :: [] := by
  decide

theorem witness_GenerateEqualsStagedCommands :
    (∃ g, exec .generate p1 = .next g ∧ g.errCode = .ok) ∧
    (∃ g, exec .generate (loaded [0x31]) = .next g ∧ g.errCode ≠ .ok ∧
      0 < (loaded [0x31]).timeStep.toInt) :=
  ⟨exists_next (by decide +kernel), exists_next (by decide +kernel)⟩

/-- Two states with the same inputs that differ elsewhere: a byte above the token, the counter, an
old digest. -/
def p1' : State :=
  { p1 with inBuf := Memory.write p1.inBuf 40 0x50, ctr := 7, digest := digest1 }

theorem witness_GenerateIsDeterministic :
    SameInputs p1 p1' ∧ p1 ≠ p1' ∧ (∃ g, exec .generate p1 = .next g ∧ g.errCode = .ok) ∧
    (∃ g, exec .generate p1' = .next g ∧ g.errCode = .ok) :=
  ⟨⟨rfl, rfl, by decide +kernel, rfl, rfl, rfl⟩, by decide +kernel, exists_next (by decide +kernel),
    exists_next (by decide +kernel)⟩

/-- L2.10b: `TIME_MS` = 30000 and 59999 in the window k = 1, and 60000 a step after 30000. -/
theorem witness_GenerateIsStableInItsWindow :
    SameTokenAndConfig { p1 with timeMs := 30000 } { p1 with timeMs := 59999 } ∧
    (∃ g, exec .generate { p1 with timeMs := 30000 } = .next g ∧ g.errCode = .ok) ∧
    (∃ g, exec .generate { p1 with timeMs := 60000 } = .next g ∧ g.ctr = 2) ∧
    1000 * { p1 with timeMs := 30000 }.timeStep.toInt * 1 ≤ timeT { p1 with timeMs := 30000 } ∧
    timeT { p1 with timeMs := 59999 } <
      1000 * { p1 with timeMs := 30000 }.timeStep.toInt * (1 + 1) ∧
    { p1 with timeMs := 60000 }.timeMs.toInt =
      { p1 with timeMs := 30000 }.timeMs.toInt +
        1000 * { p1 with timeMs := 30000 }.timeStep.toInt :=
  ⟨⟨rfl, rfl, fun _ _ => rfl, rfl, rfl⟩, exists_next (by decide +kernel),
    exists_next (by decide +kernel), by decide +kernel, by decide +kernel, by decide +kernel⟩

/-- A pending request and each kind of input, an unmapped address among the writes. -/
theorem witness_BusyDropsWrites :
    (pending .gen).pend ≠ .none ∧ (0x000 : Addr) ≠ 0x001 ∧ (0x006 : Addr) ≠ 0x001 ∧
    { pending .gen with inbox := [.hostWrite 0x006 1] }.inbox = [.hostWrite 0x006 1] ∧
    { pending .hmac with inbox := [.hostWrite 0x001 2] }.inbox = [.hostWrite 0x001 2] ∧
    { pending .hmac with inbox := [.hostRead 0x035] }.inbox = [.hostRead 0x035] := by decide

/-- Two steps while pending: a dropped write and a read. -/
theorem witness_PendingRequestFreezesTheBlock :
    (∀ x ∈ { pending .gen with inbox := [.hostWrite 0x008 3, .hostRead 0x001] }.inbox.take 2,
      x ≠ .engineRespond ∧ x ≠ .reset) ∧
    ∃ t, Host.Core.run Sys2Proof.core 2
        { pending .gen with inbox := [.hostWrite 0x008 3, .hostRead 0x001] } = .next t ∧
      t.overrun = true ∧ t.readData = some 0x000B :=
  ⟨by decide,
    exists_next (o := Host.Core.run Sys2Proof.core 2
        { pending .gen with inbox := [.hostWrite 0x008 3, .hostRead 0x001] }) (by decide +kernel)⟩

theorem witness_PendChangesOnlyAsStated :
    (∃ t, step (cmd 0x12) = .next t ∧ t.pend ≠ (cmd 0x12).pend ∧ t.pend = .hmac) ∧
    (∃ t, step (cmd 0x20) = .next t ∧ t.pend ≠ (cmd 0x20).pend ∧ t.pend = .gen) ∧
    (∃ t, step { pending .gen with inbox := [.reset] } = .next t ∧ t.pend ≠ .gen ∧
      t.pend = .none) :=
  ⟨exists_next (by decide +kernel), exists_next (by decide +kernel),
    exists_next (by decide +kernel)⟩

theorem witness_OverrunIsSticky :
    (∃ t, step { pending .gen with overrun := true, inbox := [.hostWrite 0x001 2] } = .next t ∧
      t.overrun = false) ∧
    (∃ t, step { pending .gen with inbox := [.hostWrite 0x000 1] } = .next t ∧
      t.overrun = true ∧ (pending .gen).overrun = false) :=
  ⟨exists_next (by decide +kernel), exists_next (by decide +kernel)⟩

theorem witness_ReadsHaveNoSideEffects :
    (fed [.hostRead 0x012]).inbox = .hostRead 0x012 :: [] ∧
    ∃ t, step (fed [.hostRead 0x012]) = .next t ∧ t.readData = some 30 :=
  ⟨by decide, exists_next (by decide +kernel)⟩

/-- The edges of the unmapped ranges at `IN_MAX` = 256 and at `IN_MAX` = 1. -/
theorem witness_UnmappedAddressesAreInert :
    ParamLegal State.reset ∧ UnmappedAddress 256 0x006 ∧ UnmappedAddress 256 0x037 ∧
    UnmappedAddress 256 0x03E ∧ UnmappedAddress 256 0x3FF ∧ UnmappedAddress 256 0x500 ∧
    UnmappedAddress 256 0x7FF ∧ UnmappedAddress 256 0x8A0 ∧ UnmappedAddress 256 0xBFF ∧
    UnmappedAddress 256 0xFFF ∧ UnmappedAddress 1 0x401 ∧ UnmappedAddress 1 0x800 ∧
    ¬ UnmappedAddress 256 0x4FF ∧ ¬ UnmappedAddress 256 0x89F ∧ State.reset.pend = .none ∧
    (fed [.hostWrite 0x006 1]).inbox = .hostWrite 0x006 1 :: [] := by
  simp [ParamLegal, UnmappedAddress, State.reset, Config.inMaxDefault, Config.inMaxLimit, fed]

/-- A RW register of each kind, at the ends of its range, and addresses whose writes are ignored:
`PARAM`, `KEY_LEN`, `OFFSET`, the first byte past `IN_BUF`. -/
theorem witness_BusWriteThenRead :
    Inv (fed [.hostWrite 0x010 7]) ∧ (fed [.hostWrite 0x010 7]).pend = .none ∧
    (fed [.hostWrite 0x010 7]).inbox = .hostWrite 0x010 7 :: [] ∧ (0x008 : Addr) ≠ 0x000 ∧ (0x008 : Addr) ≠ 0x001 ∧
    storedBits 256 0x008 = some 0xFFFF ∧ storedBits 256 0x010 = some 0xFFFFFFFF ∧
    storedBits 256 0x015 = some 0xFFFFFFFF ∧ storedBits 256 0x020 = some 0xFF ∧
    storedBits 256 0x033 = some 0xFF ∧ storedBits 256 0x400 = some 0xFF ∧
    storedBits 256 0x4FF = some 0xFF ∧ storedBits 256 0x005 = none ∧
    storedBits 256 0x00C = none ∧ storedBits 256 0x034 = none ∧ storedBits 256 0x500 = none :=
  ⟨inv_of_check (by decide +kernel), by decide +kernel⟩

theorem witness_BuffersReadAtTheirAddresses :
    ParamLegal State.reset ∧ 255 < State.reset.inMax ∧ 159 < keyMax State.reset ∧
    ParamLegal { State.reset with inMax := 1024 } ∧
    639 < keyMax { State.reset with inMax := 1024 } := by
  simp [ParamLegal, keyMax, State.reset, Config.inMaxDefault, Config.inMaxLimit]

theorem witness_ParamIsConstant :
    ParamLegal State.reset ∧ ∃ t, step (fed [.hostWrite 0x005 7]) = .next t ∧
      busRead t 0x005 = 0x00A00100 :=
  ⟨by simp [ParamLegal, State.reset, Config.inMaxDefault, Config.inMaxLimit],
    exists_next (by decide +kernel)⟩

/-- One state for each kind of next input. -/
theorem witness_StepTakesTheNextInput :
    (fed [.hostWrite 0x010 7]).inbox = .hostWrite 0x010 7 :: [] ∧
    { pending .hmac with inbox := [.engineRespond] }.inbox = .engineRespond :: [] ∧
    State.reset.inbox = [] := by decide

/-- A reset while `GENERATE` is pending (P7). -/
theorem witness_ResetValues :
    { p1 with pend := .gen, inbox := [.reset] }.inbox = .reset :: [] := by decide

end Sys2Proof.Tests
end

section
/-! PROOFS. The schedule of inputs (R13, R72): what one step makes of the next input. -/

namespace Sys2Proof.Machine

/-- Settles O51: one dispatch lemma of `step` for each kind of next input. -/
theorem stepTakesTheNextInput : Obligations.StepTakesTheNextInput := by
  intro s rest
  refine ⟨?hostWrite, ?engineRespond, ?idle⟩
  case hostWrite => exact fun _ _ h => step_hostWrite h
  case engineRespond => exact step_engineRespond
  case idle => exact step_idle

end Sys2Proof.Machine
end

section
/-! PROOFS. What one command and one step can leave, said once as two inversions: the frames and the
invariants below are case splits on them. -/

namespace Sys2Proof.Machine

/-- `CommandEffect s i u`: the command `i` completes in the state `s`, and `u` is `s` with what the
"State written" line of `i` names, `ERR_CODE` apart (R116 to R190). The premises are the checks the
command has passed. -/
inductive CommandEffect (s : State) : Instr → State → Prop where
  | decClear : CommandEffect s .decClear { s with dec := Decoder.cleared }
  | decLookup (c : Byte) :
      CommandEffect s (.decLookup c)
        { s with
          lookupValid := (b32val (norm c)).isSome, lookupValue := (b32val (norm c)).getD 0 }
  | decPush (c : Byte) (v : BitVec 5) (hn : s.dec.nchars.toNat ≠ s.inMax)
      (hv : b32val (norm c) = some v) (hr : keyHasRoom s v = true) :
      CommandEffect s (.decPush c) { s with dec := pushSymbol s.dec v }
  | decString (d : Decoder) (hd : stageDecode s = .ok d) :
      CommandEffect s .decString { s with dec := d }
  | ctrDerive (hs : 0 < timeStepSeconds s) : CommandEffect s .ctrDerive (deriveCounter s)
  | ctrEncode : CommandEffect s .ctrEncode (encodeCounter s)
  | hmacStart : CommandEffect s .hmacStart { s with pend := .hmac }
  | truncate : CommandEffect s .truncate (truncateDigest s)
  | mod1m : CommandEffect s .mod1m (reduceTrunc s)
  | format : CommandEffect s .format (formatCode s)
  | generate (d : Decoder) (hs : 0 < timeStepSeconds s) (hd : stageDecode s = .ok d) :
      CommandEffect s .generate { encodeCounter (deriveCounter s) with dec := d, pend := .gen }

/-- `DEC_LOOKUP` completes whether or not the character is valid (R117). -/
theorem execDecLookup_eq (c : Byte) (s : State) :
    execDecLookup c s = .next (succeed
      { s with
        lookupValid := (b32val (norm c)).isSome, lookupValue := (b32val (norm c)).getD 0 }) := by
  unfold execDecLookup
  cases b32val (norm c) <;> rfl

/-- A command that answers a next state has raised an error or had its effect. -/
theorem exec_next_cases {i : Instr} {s t : State} (h : exec i s = .next t) :
    (∃ e, t = raise e s) ∨ ∃ u, CommandEffect s i u ∧ t = succeed u := by
  cases i with
  | decClear => cases h; exact .inr ⟨_, .decClear, rfl⟩
  | decLookup c =>
    rw [exec, execDecLookup_eq] at h
    cases h
    exact .inr ⟨_, .decLookup c, rfl⟩
  | decPush c =>
    simp only [exec, execDecPush] at h
    split at h
    · cases h; exact .inl ⟨_, rfl⟩
    · split at h
      · cases h; exact .inl ⟨_, rfl⟩
      · split at h
        · cases h; exact .inr ⟨_, .decPush c _ ‹_› ‹_› ‹_›, rfl⟩
        · cases h
  | decString =>
    simp only [exec, execDecString] at h
    split at h <;> cases h
    · exact .inl ⟨_, rfl⟩
    · exact .inr ⟨_, .decString _ ‹_›, rfl⟩
  | ctrDerive =>
    simp only [exec, execCtrDerive] at h
    split at h <;> cases h
    · exact .inl ⟨_, rfl⟩
    · exact .inr ⟨_, .ctrDerive (by omega), rfl⟩
  | ctrEncode => cases h; exact .inr ⟨_, .ctrEncode, rfl⟩
  | hmacStart => cases h; exact .inr ⟨_, .hmacStart, rfl⟩
  | truncate => cases h; exact .inr ⟨_, .truncate, rfl⟩
  | mod1m => cases h; exact .inr ⟨_, .mod1m, rfl⟩
  | format => cases h; exact .inr ⟨_, .format, rfl⟩
  | generate =>
    simp only [exec, execGenerate] at h
    split at h
    · cases h; exact .inl ⟨_, rfl⟩
    · split at h <;> cases h
      · exact .inl ⟨_, rfl⟩
      · exact .inr ⟨_, .generate _ (by omega) ‹_›, rfl⟩

theorem runCommand_command {w : Word} {i : Instr} (h : decode w = .command i) (s : State) :
    runCommand w s = exec i s := by
  simp [runCommand, h]

theorem runCommand_illegal {w : Word} {why : DecodeError} (h : decode w = .illegal why) (s : State) :
    runCommand w s = .next (raise .illegalCommand s) := by
  simp [runCommand, h]

/-- A command word has raised an error or had the effect of the command it decodes to. -/
theorem runCommand_next_cases {w : Word} {s t : State} (h : runCommand w s = .next t) :
    (∃ e, t = raise e s) ∨
      ∃ i u, decode w = .command i ∧ CommandEffect s i u ∧ t = succeed u := by
  cases hd : decode w with
  | command i =>
    rw [runCommand_command hd] at h
    exact (exec_next_cases h).imp_right fun ⟨u, hu, ht⟩ => ⟨i, u, rfl, hu, ht⟩
  | illegal why =>
    rw [runCommand_illegal hd] at h
    cases h
    exact .inl ⟨_, rfl⟩

/-- `StepEffect s t`: a case for each way a step from `s` can answer the next state `t` (R13), with
the input it takes. -/
inductive StepEffect (s : State) : State → Prop where
  | idle (h : s.inbox = []) : StepEffect s s
  | read (a : Addr) (rest : List Input) (h : s.inbox = .hostRead a :: rest) :
      StepEffect s (hostRead a { s with inbox := rest })
  | statusWrite (v : Word) (rest : List Input) (h : s.inbox = .hostWrite statusAddr v :: rest) :
      StepEffect s (writeStatus v { s with inbox := rest })
  | droppedWrite (a : Addr) (v : Word) (rest : List Input)
      (h : s.inbox = .hostWrite a v :: rest) (ha : a ≠ statusAddr) (hp : s.pend ≠ .none) :
      StepEffect s (dropWrite { s with inbox := rest })
  | raised (w : Word) (rest : List Input) (e : CmdError)
      (h : s.inbox = .hostWrite cmdAddr w :: rest) (hp : s.pend = .none) :
      StepEffect s (raise e { s with inbox := rest })
  | completed (w : Word) (rest : List Input) (i : Instr) (u : State)
      (h : s.inbox = .hostWrite cmdAddr w :: rest) (hp : s.pend = .none)
      (hd : decode w = .command i) (hu : CommandEffect { s with inbox := rest } i u) :
      StepEffect s (succeed u)
  | regWrite (a : Addr) (v : Word) (rest : List Input) (h : s.inbox = .hostWrite a v :: rest)
      (ha : a ≠ statusAddr) (hc : a ≠ cmdAddr) (hp : s.pend = .none) :
      StepEffect s (writeReg v { s with inbox := rest } (regAt s a))
  | respondedHmac (rest : List Input) (h : s.inbox = .engineRespond :: rest)
      (hp : s.pend = .hmac) :
      StepEffect s (respondHmac (Config.hmacFn (hmacKey s) s.msg) { s with inbox := rest })
  | respondedGen (rest : List Input) (h : s.inbox = .engineRespond :: rest)
      (hp : s.pend = .gen) :
      StepEffect s (respondGen (Config.hmacFn (hmacKey s) s.msg) { s with inbox := rest })
  | reset (rest : List Input) (h : s.inbox = .reset :: rest) :
      StepEffect s (resetBlock { s with inbox := rest })

/-- A step that takes a host write has one of `hostWrite`'s four effects. -/
theorem stepEffect_of_hostWrite {s t : State} {a : Addr} {v : Word} {rest : List Input}
    (h : s.inbox = .hostWrite a v :: rest)
    (ht : hostWrite a v { s with inbox := rest } = .next t) : StepEffect s t := by
  rcases hostWrite_cases a v { s with inbox := rest } with
    ⟨rfl, hw⟩ | ⟨ha, hp, hw⟩ | ⟨rfl, hp, hw⟩ | ⟨ha, hc, hp, hw⟩ <;> rw [hw] at ht
  · cases ht; exact .statusWrite v rest h
  · cases ht; exact .droppedWrite a v rest h ha hp
  · rcases runCommand_next_cases ht with ⟨e, rfl⟩ | ⟨i, u, hd, hu, rfl⟩
    · exact .raised v rest e h hp
    · exact .completed v rest i u h hp hd hu
  · cases ht; exact .regWrite a v rest h ha hc hp

/-- What a step can do. -/
theorem step_effect {s t : State} (h : step s = .next t) : StepEffect s t := by
  cases hi : s.inbox with
  | nil => rw [step_idle hi] at h; cases h; exact .idle hi
  | cons x rest =>
    cases x with
    | hostRead a => rw [step_hostRead hi] at h; cases h; exact .read a rest hi
    | hostWrite a v => rw [step_hostWrite hi] at h; exact stepEffect_of_hostWrite hi h
    | engineRespond =>
      rw [step_engineRespond hi] at h
      rcases engineResponse_cases _ { s with inbox := rest } with ⟨-, hr⟩ | ⟨hp, hr⟩ | ⟨hp, hr⟩ <;>
        rw [engineRespond, hr] at h <;> cases h
      · exact .respondedHmac rest hi hp
      · exact .respondedGen rest hi hp
    | reset => rw [step_reset hi] at h; cases h; exact .reset rest hi

end Sys2Proof.Machine
end

section
/-! PROOFS. The decoder's invariants (R48) through one symbol and through a whole token: what
`DEC_PUSH`, `DEC_STRING` and `GENERATE` share. -/

namespace Sys2Proof.Machine

/-! ### The repacking step on the decoder's registers -/

theorem decoderStep_hold {d : Decoder} (v : BitVec 5) (h : d.bits.toNat + 5 < 8) :
    decoderStep d v =
      { acc := d.acc.toNat * 32 + v.toNat, bits := d.bits.toNat + 5, out := none } :=
  repack_hold v.isLt h

theorem decoderStep_emit {d : Decoder} (v : BitVec 5) (h : 8 ≤ d.bits.toNat + 5) :
    decoderStep d v =
      { acc := (d.acc.toNat * 32 + v.toNat) % 2 ^ (d.bits.toNat + 5 - 8)
        bits := d.bits.toNat + 5 - 8
        out := some ((d.acc.toNat * 32 + v.toNat) / 2 ^ (d.bits.toNat + 5 - 8) % 256) } :=
  repack_emit v.isLt h

theorem decoderStep_bits (d : Decoder) (v : BitVec 5) :
    (decoderStep d v).bits = (d.bits.toNat + 5) % 8 := by
  by_cases h : d.bits.toNat + 5 < 8
  · rw [decoderStep_hold v h, Nat.mod_eq_of_lt h]
  · rw [decoderStep_emit v (by omega)]
    have := d.bits.isLt
    dsimp only
    omega

/-- The accumulator stays within its bit count (R48, clause 4). -/
theorem decoderStep_acc_lt {d : Decoder} (v : BitVec 5) (ha : d.acc.toNat < 2 ^ d.bits.toNat) :
    (decoderStep d v).acc < 2 ^ (decoderStep d v).bits := by
  by_cases h : d.bits.toNat + 5 < 8
  · rw [decoderStep_hold v h]
    have := v.isLt
    dsimp only
    rw [pow_add]
    omega
  · rw [decoderStep_emit v (by omega)]
    exact Nat.mod_lt _ (Nat.two_pow_pos _)

/-! ### Taking one symbol -/

theorem pushSymbol_bits_toNat (d : Decoder) (v : BitVec 5) :
    (pushSymbol d v).bits.toNat = (d.bits.toNat + 5) % 8 := by
  rw [pushSymbol_bits, decoderStep_bits, BitVec.toNat_ofNat, Nat.mod_mod]

theorem pushSymbol_acc_lt {d : Decoder} (v : BitVec 5) (ha : d.acc.toNat < 2 ^ d.bits.toNat) :
    (pushSymbol d v).acc.toNat < 2 ^ (pushSymbol d v).bits.toNat := by
  rw [pushSymbol_acc, pushSymbol_bits_toNat, ← decoderStep_bits d v, BitVec.toNat_ofNat]
  exact lt_of_le_of_lt (Nat.mod_le _ _) (decoderStep_acc_lt v ha)

theorem pushSymbol_keyLen_hold {d : Decoder} (v : BitVec 5) (h : d.bits.toNat + 5 < 8) :
    (pushSymbol d v).keyLen = d.keyLen :=
  (pushSymbol_none (by rw [decoderStep_hold v h])).1

theorem pushSymbol_keyLen_emit {d : Decoder} (v : BitVec 5) (h : 8 ≤ d.bits.toNat + 5) :
    (pushSymbol d v).keyLen = d.keyLen + 1 :=
  (pushSymbol_some (by rw [decoderStep_emit v h])).1

theorem pushSymbol_keyBuf_hold {d : Decoder} (v : BitVec 5) (h : d.bits.toNat + 5 < 8) :
    (pushSymbol d v).keyBuf = d.keyBuf :=
  (pushSymbol_none (by rw [decoderStep_hold v h])).2

/-- Taking a symbol changes no key byte but the one at `KEY_LEN` (R119). -/
theorem pushSymbol_read_ne (d : Decoder) (v : BitVec 5) {a : Nat} (h : a ≠ d.keyLen.toNat) :
    Memory.read (pushSymbol d v).keyBuf a = Memory.read d.keyBuf a := by
  cases ho : (decoderStep d v).out with
  | none => rw [(pushSymbol_none ho).2]
  | some b => rw [(pushSymbol_some ho).2, Memory.read_write_ne _ _ h]

/-- Taking a symbol keeps the canonical form of `KEY_BUF`. -/
theorem pushSymbol_wf {d : Decoder} (v : BitVec 5) (h : Memory.wf d.keyBuf = true) :
    Memory.wf (pushSymbol d v).keyBuf = true := by
  cases ho : (decoderStep d v).out with
  | none => rwa [(pushSymbol_none ho).2]
  | some b => rw [(pushSymbol_some ho).2]; exact Memory.write_wf _ _ h

theorem decoderInv_of_cleared {s : State} (h : s.dec = Decoder.cleared) : DecoderInv s := by
  constructor <;> simp [h, Decoder.cleared]

/-- R48 is kept by one symbol, as long as fewer than `IN_MAX` have been taken. -/
theorem DecoderInv.push {s : State} (hs : DecoderInv s) (hm : s.inMax ≤ 1024)
    (hn : s.dec.nchars.toNat < s.inMax) (v : BitVec 5) :
    DecoderInv { s with dec := pushSymbol s.dec v } := by
  obtain ⟨-, hbits, hlen, hacc, hzero⟩ := hs
  have hnchars : (pushSymbol s.dec v).nchars.toNat = s.dec.nchars.toNat + 1 := by
    rw [pushSymbol_nchars, BitVec.toNat_add_of_lt (by simp; omega)]; rfl
  have hbits' := pushSymbol_bits_toNat s.dec v
  by_cases h : s.dec.bits.toNat + 5 < 8
  case pos =>
    have hlen' := pushSymbol_keyLen_hold v h
    refine ⟨?_, ?_, ?_, pushSymbol_acc_lt v hacc, fun i hi => ?_⟩ <;> dsimp only at *
    · omega
    · omega
    · rw [hlen']; omega
    · rw [pushSymbol_keyBuf_hold v h]
      exact hzero i (hlen' ▸ hi)
  case neg =>
    have hlen' : (pushSymbol s.dec v).keyLen.toNat = s.dec.keyLen.toNat + 1 := by
      rw [pushSymbol_keyLen_emit v (by omega), BitVec.toNat_add_of_lt (by simp; omega)]; rfl
    refine ⟨?_, ?_, ?_, pushSymbol_acc_lt v hacc, fun i hi => ?_⟩ <;> dsimp only at *
    · omega
    · omega
    · omega
    · rw [pushSymbol_read_ne _ _ (by omega)]
      exact hzero i (by omega)

/-- R119: a byte that a symbol emits before `IN_MAX` symbols are taken has a place in `KEY_BUF`. -/
theorem DecoderInv.keyHasRoom {s : State} (hs : DecoderInv s)
    (hn : s.dec.nchars.toNat < s.inMax) (v : BitVec 5) : keyHasRoom s v = true := by
  by_cases h : s.dec.bits.toNat + 5 < 8
  · simp [Machine.keyHasRoom, decoderStep_hold v h]
  · have hlt : s.dec.keyLen.toNat < keyMax s := by
      have := hs.bits_eq
      have := hs.keyLen_eq
      unfold keyMax
      omega
    simp [Machine.keyHasRoom, hlt]

end Sys2Proof.Machine
end

section
/-! PROOFS. The invariants of R48 and R49: reset meets them, every step keeps them, and in a state
that meets them every enabled step completes. -/

namespace Sys2Proof.Machine

/-! ### `Inv` reads four fields -/

/-- `Inv` depends on `IN_MAX`, `IN_BUF`, the decoder and `CODE_BIN` only, and of `CODE_BIN` it wants
at most six digits. -/
theorem Inv.withCode {s t : State} (hs : Inv s) (hm : t.inMax = s.inMax) (hb : t.inBuf = s.inBuf)
    (hd : t.dec = s.dec) (hc : t.codeBin.toNat ≤ 999999) : Inv t := by
  obtain ⟨hparam, ⟨h1, h2, h3, h4, h5⟩, -, ⟨hin, hkey, hzero⟩⟩ := hs
  rw [← hd] at h1 h2 h3 h4 h5 hkey
  rw [← hm] at h1 hzero
  rw [← hb] at hin hzero
  exact ⟨by rwa [ParamLegal, hm], ⟨h1, h2, h3, h4, h5⟩, hc, ⟨hin, hkey, hzero⟩⟩

theorem Inv.congr {s t : State} (hs : Inv s) (hm : t.inMax = s.inMax) (hb : t.inBuf = s.inBuf)
    (hd : t.dec = s.dec) (hc : t.codeBin = s.codeBin) : Inv t :=
  hs.withCode hm hb hd (hc ▸ hs.pipeline)

/-- Taking an input off the schedule touches none of them. -/
theorem Inv.taken {s : State} (hs : Inv s) (rest : List Input) : Inv { s with inbox := rest } :=
  hs.congr rfl rfl rfl rfl

/-- A decoder that meets R48 may take the place of the one the state holds. -/
theorem Inv.withDecoder {s : State} {d : Decoder} (hs : Inv s)
    (hd : DecoderInv { s with dec := d }) (hw : Memory.wf d.keyBuf = true) :
    Inv { s with dec := d } :=
  ⟨hs.param, hd, hs.pipeline, ⟨hs.buffers.inBuf_wf, hw, hs.buffers.in_zero⟩⟩

theorem Inv.cleared {s : State} (hs : Inv s) : Inv { s with dec := Decoder.cleared } :=
  hs.withDecoder (decoderInv_of_cleared rfl) rfl

theorem Inv.push {s : State} (hs : Inv s) (hn : s.dec.nchars.toNat < s.inMax) (v : BitVec 5) :
    Inv { s with dec := pushSymbol s.dec v } :=
  hs.withDecoder (hs.decoder.push hs.param.2 hn v) (pushSymbol_wf v hs.buffers.keyBuf_wf)

/-- The loop of `DEC_STRING` keeps the invariants when its characters fit. -/
theorem Inv.decodeChars {s : State} {cs : List Byte} :
    ∀ {pos : Nat} {d d' : Decoder}, Inv { s with dec := d } →
      d.nchars.toNat + cs.length ≤ s.inMax → Machine.decodeChars pos cs d = .ok d' →
        Inv { s with dec := d' } := by
  induction cs with
  | nil => intro pos d d' hd _ h; cases h; exact hd
  | cons c cs ih =>
    intro pos d d' hd hn h
    rw [List.length_cons] at hn
    cases hv : b32val (norm c) with
    | none => rw [decodeChars_cons_none hv] at h; cases h
    | some v =>
      rw [decodeChars_cons_some hv] at h
      refine ih (hd.push (show d.nchars.toNat < s.inMax by omega) v) ?_ h
      have hle : (pushSymbol d v).nchars.toNat ≤ d.nchars.toNat + 1 := by
        rw [pushSymbol_nchars, BitVec.toNat_add]; exact Nat.mod_le _ _
      exact (Nat.add_le_add_right hle _).trans (by omega)

/-- The staged decode of `DEC_STRING` and `GENERATE` answers a decoder that meets the invariants. -/
theorem Inv.stageDecode {s : State} {d : Decoder} (hs : Inv s)
    (h : Machine.stageDecode s = .ok d) : Inv { s with dec := d } := by
  rcases stageDecode_cases s with ⟨-, he⟩ | ⟨hlen, he⟩ <;> rw [he] at h
  · cases h
  · refine hs.cleared.decodeChars ?_ h
    have := strippedLen_le s.inBuf s.inLen.toNat
    rw [token_length]
    simp only [Decoder.cleared]
    exact (Nat.zero_add _).trans_le (this.trans hlen)

/-! ### Reset -/

/-- Reset meets the invariants at every legal `IN_MAX` (R233). -/
theorem inv_resetBlock {s : State} (hs : ParamLegal s) : Inv (resetBlock s) where
  param := hs
  decoder := decoderInv_of_cleared rfl
  pipeline := Nat.zero_le _
  buffers := ⟨rfl, rfl, fun _ _ => rfl⟩

/-- Settles O8: `State.reset` is what a reset leaves of itself. -/
theorem resetMeetsInvariants : Obligations.ResetMeetsInvariants := by
  have hlegal : ParamLegal State.reset := by
    unfold ParamLegal; decide
  exact ⟨inv_resetBlock hlegal, fun _ hs => inv_resetBlock hs⟩

/-! ### Every step -/

/-- `MOD1M` leaves a code of six digits (R49). -/
theorem reduceTrunc_codeBin_le (s : State) : (reduceTrunc s).codeBin.toNat ≤ 999999 := by
  rw [reduceTrunc_codeBin, BitVec.toNat_ofNat]
  omega

theorem Inv.reduceTrunc {s : State} (hs : Inv s) : Inv (reduceTrunc s) :=
  hs.withCode rfl rfl rfl (reduceTrunc_codeBin_le s)

/-- The response to `GENERATE` reduces the code too. -/
theorem Inv.respondGen {s : State} (hs : Inv s) (d : Digest) : Inv (respondGen d s) := by
  have ht : Inv (truncateDigest { s with digest := d }) := hs.congr rfl rfl rfl rfl
  exact ht.reduceTrunc.congr rfl rfl rfl rfl

/-- A command that completes keeps the invariants. -/
theorem Inv.commandEffect {s u : State} {i : Instr} (hs : Inv s) (h : CommandEffect s i u) :
    Inv u := by
  cases h with
  | decClear => exact hs.cleared
  | decLookup c => exact hs.congr rfl rfl rfl rfl
  | decPush c v hn hv hr => exact hs.push (lt_of_le_of_ne hs.decoder.nchars_le hn) v
  | decString d hd => exact hs.stageDecode hd
  | ctrDerive hstep => exact hs.congr rfl rfl rfl rfl
  | ctrEncode => exact hs.congr rfl rfl rfl rfl
  | hmacStart => exact hs.congr rfl rfl rfl rfl
  | truncate => exact hs.congr rfl rfl rfl rfl
  | mod1m => exact hs.reduceTrunc
  | format => exact hs.congr rfl rfl rfl rfl
  | generate d hstep hd => exact (hs.stageDecode hd).congr rfl rfl rfl rfl

/-- A host write of a buffer byte is inside `IN_BUF` and keeps its canonical form. -/
theorem Inv.writeInBuf {s : State} (hs : Inv s) {i : Nat} (hi : i < s.inMax) (b : Byte) :
    Inv { s with inBuf := Memory.write s.inBuf i b } := by
  obtain ⟨hparam, ⟨h1, h2, h3, h4, h5⟩, hpipe, ⟨hin, hkey, hzero⟩⟩ := hs
  refine ⟨hparam, ⟨h1, h2, h3, h4, h5⟩, hpipe, ⟨Memory.write_wf _ _ hin, hkey, fun j hj => ?_⟩⟩
  have hne : j ≠ i := by dsimp only at hj; omega
  rw [Memory.read_write_ne b _ hne, hzero j hj]

/-- An accepted register write keeps the invariants. -/
theorem Inv.writeReg {s : State} (hs : Inv s) (v : Word) (a : Addr) :
    Inv (writeReg v s (regAt s a)) := by
  cases hr : regAt s a with
  | inBuf i => exact hs.writeInBuf (regAt_inBuf hr).2 _
  | _ => exact hs.congr rfl rfl rfl rfl

/-- Settles O7: a case for each thing a step can do. -/
theorem everyStepKeepsInvariants : Obligations.EveryStepKeepsInvariants := by
  intro s t hs hstep
  cases step_effect hstep with
  | idle h => exact hs
  | read a rest h => exact hs.congr rfl rfl rfl rfl
  | statusWrite v rest h => exact hs.congr (by simp) (by simp) (by simp) (by simp)
  | droppedWrite a v rest h ha hp => exact hs.congr rfl rfl rfl rfl
  | raised w rest e h hp => exact hs.congr (by simp) (by simp) (by simp) (by simp)
  | completed w rest i u h hp hd hu =>
    exact ((hs.taken rest).commandEffect hu).congr rfl rfl rfl rfl
  | regWrite a v rest h ha hc hp => exact (hs.taken rest).writeReg v a
  | respondedHmac rest h hp => exact hs.congr rfl rfl rfl rfl
  | respondedGen rest h hp => exact (hs.taken rest).respondGen _
  | reset rest h => exact inv_resetBlock (hs.taken rest).param

/-! ### No enabled step stops -/

/-- R119: in a state that meets R48 no command faults. -/
theorem exec_completes {s : State} (hs : Inv s) (i : Instr) : ∃ t, exec i s = .next t := by
  rcases exec_cases i s with ⟨u, h⟩ | ⟨e, h⟩ | ⟨h, c, rfl⟩
  · exact ⟨_, h⟩
  · exact ⟨_, h⟩
  · simp only [exec, execDecPush] at h
    split at h
    · cases h
    · rename_i hn
      have hlt := lt_of_le_of_ne hs.decoder.nchars_le hn
      split at h
      · cases h
      · rw [if_pos (hs.decoder.keyHasRoom hlt _)] at h; cases h

theorem runCommand_completes {s : State} (hs : Inv s) (w : Word) :
    ∃ t, runCommand w s = .next t := by
  cases hd : decode w with
  | command i => rw [runCommand_command hd]; exact exec_completes hs i
  | illegal why => exact ⟨_, runCommand_illegal hd s⟩

theorem hostWrite_completes {s : State} (hs : Inv s) (a : Addr) (v : Word) :
    ∃ t, hostWrite a v s = .next t := by
  rcases hostWrite_cases a v s with ⟨-, h⟩ | ⟨-, -, h⟩ | ⟨-, -, h⟩ | ⟨-, -, -, h⟩
  · exact ⟨_, h⟩
  · exact ⟨_, h⟩
  · rw [h]; exact runCommand_completes hs v
  · exact ⟨_, h⟩

theorem engineRespond_completes {s : State} (hp : s.pend ≠ .none) :
    ∃ t, engineRespond s = .next t := by
  rcases engineResponse_cases (Config.hmacFn (hmacKey s) s.msg) s with ⟨h, -⟩ | ⟨-, h⟩ | ⟨-, h⟩
  · exact absurd h hp
  · exact ⟨_, h⟩
  · exact ⟨_, h⟩

theorem engineRespond_refused {s : State} (hp : s.pend = .none) :
    engineRespond s = .refused .responseNotEnabled := by
  simp [engineRespond, engineResponse, hp]

/-- Settles O9: the case of each input. -/
theorem enabledStepsComplete : Obligations.EnabledStepsComplete := by
  intro s hs
  constructor
  case left =>
    intro hen
    cases hi : s.inbox with
    | nil => exact ⟨_, step_idle hi⟩
    | cons x rest =>
      cases x with
      | hostRead a => exact ⟨_, step_hostRead hi⟩
      | hostWrite a v =>
        rw [step_hostWrite hi]
        exact hostWrite_completes (hs.taken rest) a v
      | engineRespond =>
        rw [step_engineRespond hi]
        exact engineRespond_completes fun hp => hen hp (by rw [hi]; rfl)
      | reset => exact ⟨_, step_reset hi⟩
  case right =>
    intro hen
    obtain ⟨hp, hi⟩ : s.pend = .none ∧ s.inbox.head? = some .engineRespond := by
      simpa [InputEnabled] using hen
    obtain ⟨rest, hi⟩ := List.head?_eq_some_iff.1 hi
    rw [step_engineRespond hi]
    exact engineRespond_refused hp

end Sys2Proof.Machine
end

section
/-! PROOFS. A command has one word (R94, R95, R98), which the statement about `PEND` names. -/

namespace Sys2Proof

theorem opcodeOf_toNat (w : Word) : (opcodeOf w).toNat = w.toNat % 256 := by
  simp [opcodeOf]

theorem charOf_toNat (w : Word) : (charOf w).toNat = w.toNat / 256 % 256 := by
  simp [charOf, Nat.shiftRight_eq_div_pow]

theorem reservedZeroN_iff (w : Word) : reservedZeroN w = true ↔ w.toNat < 256 := by
  have := w.isLt
  rw [reservedZeroN, beq_iff_eq, ← BitVec.toNat_inj, BitVec.extractLsb'_toNat,
    Nat.shiftRight_eq_div_pow, BitVec.ofNat_eq_ofNat, BitVec.toNat_zero]
  omega

theorem reservedZeroC_iff (w : Word) : reservedZeroC w = true ↔ w.toNat < 65536 := by
  have := w.isLt
  rw [reservedZeroC, beq_iff_eq, ← BitVec.toNat_inj, BitVec.extractLsb'_toNat,
    Nat.shiftRight_eq_div_pow, BitVec.ofNat_eq_ofNat, BitVec.toNat_zero]
  omega

theorem wordN_opcodeOf {w : Word} (h : reservedZeroN w = true) : wordN (opcodeOf w) = w := by
  have := (reservedZeroN_iff w).1 h
  apply BitVec.eq_of_toNat_eq
  rw [wordN_toNat, opcodeOf_toNat]
  omega

theorem wordC_opcodeOf_charOf {w : Word} (h : reservedZeroC w = true) :
    wordC (opcodeOf w) (charOf w) = w := by
  have := (reservedZeroC_iff w).1 h
  apply BitVec.eq_of_toNat_eq
  rw [wordC_toNat, opcodeOf_toNat, charOf_toNat]
  omega

/-- A word that decodes to a command is that command's encoding. -/
theorem encode_of_decode {w : Word} {i : Instr} (h : decode w = .command i) : encode i = w := by
  unfold decode at h
  split at h
  next hf =>
    split at h <;> cases h
    next hr => rw [encode_of_formatN hf, wordN_opcodeOf hr]
  next =>
    split at h
    next hf =>
      split at h <;> cases h
      next hr => rw [encode_of_formatC hf, wordC_opcodeOf_charOf hr]
    next => cases h

end Sys2Proof
end

section
/-! PROOFS. What commands and steps leave unchanged, what moves `PEND`, and the step that runs a
command. -/

namespace Sys2Proof.Machine

/-! ### Commands -/

/-- Settles O10: raising an error writes the error fields only, and a command that completes writes
what its `CommandEffect` names. -/
theorem commandsFrame : Obligations.CommandsFrame := by
  intro i s t h
  rcases exec_next_cases h with ⟨e, rfl⟩ | ⟨u, hu, rfl⟩
  case inl =>
    have herr : (raise e s).errCode ≠ .invalidCharacter →
        (raise e s).errChar = s.errChar ∧ (raise e s).errPos = s.errPos := by
      cases e <;> simp [raise, errCodeOf]
    simpa using herr
  case inr =>
    cases hu with
    | decPush c v hn hv hr => simp +contextual [pushSymbol_read_ne]
    | _ => simp

theorem commandEffect_inMax {s u : State} {i : Instr} (h : CommandEffect s i u) :
    u.inMax = s.inMax := by
  cases h <;> rfl

/-- Only the two commands that issue a request write `PEND` (R47). -/
theorem commandEffect_pend {s u : State} {i : Instr} (h : CommandEffect s i u) :
    u.pend = s.pend ∨ (u.pend = .hmac ∧ i = .hmacStart) ∨ (u.pend = .gen ∧ i = .generate) := by
  cases h with
  | hmacStart => exact .inr (.inl ⟨rfl, rfl⟩)
  | generate d hs hd => exact .inr (.inr ⟨rfl, rfl⟩)
  | _ => exact .inl rfl

/-! ### Register writes and the engine's responses -/

@[simp] theorem writeReg_inMax (v : Word) (s : State) (r : Reg) :
    (writeReg v s r).inMax = s.inMax := by
  rw [writeReg_eq]

@[simp] theorem writeReg_pend (v : Word) (s : State) (r : Reg) :
    (writeReg v s r).pend = s.pend := by
  rw [writeReg_eq]

@[simp] theorem writeReg_inbox (v : Word) (s : State) (r : Reg) :
    (writeReg v s r).inbox = s.inbox := by
  rw [writeReg_eq]

@[simp] theorem writeReg_readData (v : Word) (s : State) (r : Reg) :
    (writeReg v s r).readData = s.readData := by
  rw [writeReg_eq]

@[simp] theorem respondGen_inMax (d : Digest) (s : State) :
    (respondGen d s).inMax = s.inMax := rfl

@[simp] theorem respondGen_pend (d : Digest) (s : State) : (respondGen d s).pend = .none := rfl

/-! ### Steps -/

/-- No step changes the parameter (R29). -/
theorem step_inMax {s t : State} (h : step s = .next t) : t.inMax = s.inMax := by
  cases step_effect h with
  | completed w rest i u hi hp hd hu => exact (commandEffect_inMax hu :)
  | _ => simp

/-- Settles O43: of all that a step can do, only a command that issues a request, a response and a
reset write `PEND`. -/
theorem pendChangesOnlyAsStated : Obligations.PendChangesOnlyAsStated := by
  intro s t h hne
  cases step_effect h with
  | completed w rest i u hi hp hd hu =>
    rw [← encode_of_decode hd] at hi
    rcases commandEffect_pend hu with hpend | ⟨hpend, rfl⟩ | ⟨hpend, rfl⟩
    · exact absurd hpend hne
    · simp [hpend, hp, hi]
    · simp [hpend, hp, hi]
  | respondedHmac rest hi hp => simp [hi]
  | respondedGen rest hi hp => simp [hi]
  | reset rest hi => simp [hi, State.reset]
  | _ => simp at hne

/-- Settles O1: the step dispatches the write to `CMD`, and `withFetchWord` is such a write. -/
theorem stepRunsDecodedCommand : Obligations.StepRunsDecodedCommand := by
  have runs (s : State) (w : Word) (i : Instr) (rest : List Input)
      (hi : s.inbox = .hostWrite cmdAddr w :: rest) (hp : s.pend = .none)
      (hd : decode w = .command i) : step s = exec i { s with inbox := rest } := by
    rw [step_command hi hp, runCommand_command hd]
  refine ⟨runs, fun s w i hd => ?_⟩
  have hw : BitVec.ofNat 32 (w.toNat % 2 ^ 32) = w := by
    rw [Nat.mod_eq_of_lt w.isLt, BitVec.ofNat_toNat, BitVec.setWidth_eq]
  exact runs (s.withFetchWord 32 w.toNat) w i s.inbox (by rw [State.withFetchWord, hw]) rfl hd

end Sys2Proof.Machine
end

section
/-! PROOFS. What each address of the host bus reads as (R62), and `STATUS`. -/

namespace Sys2Proof.Machine

/-! ### Where the registers stand -/

theorem regAt_low {a : Addr} (s : State) (h : a.toNat < 0x400) : regAt s a = byteReg a.toNat := by
  rw [regAt, if_pos h]

theorem regAt_inBuf_window {s : State} {a : Addr} (h : 0x400 ≤ a.toNat) (h' : a.toNat < 0x800) :
    regAt s a = if a.toNat - 0x400 < s.inMax then .inBuf (a.toNat - 0x400) else .unmapped := by
  rw [regAt, if_neg (by omega), if_pos h']

theorem regAt_keyBuf_window {s : State} {a : Addr} (h : 0x800 ≤ a.toNat) (h' : a.toNat < 0xC00) :
    regAt s a = if a.toNat - 0x800 < keyMax s then .keyBuf (a.toNat - 0x800) else .unmapped := by
  rw [regAt, if_neg (by omega), if_neg (by omega), if_pos h']

theorem regAt_high {s : State} {a : Addr} (h : 0xC00 ≤ a.toNat) : regAt s a = .unmapped := by
  rw [regAt, if_neg (by omega), if_neg (by omega), if_neg (by omega)]

theorem regAt_inBuf_addr {s : State} {i : Nat} (hm : s.inMax ≤ 1024) (hi : i < s.inMax) :
    regAt s (BitVec.ofNat 12 (0x400 + i)) = .inBuf i := by
  have ha : (BitVec.ofNat 12 (0x400 + i)).toNat = 0x400 + i := by
    rw [BitVec.toNat_ofNat]; omega
  rw [regAt_inBuf_window (by omega) (by omega), ha, Nat.add_sub_cancel_left, if_pos hi]

theorem regAt_keyBuf_addr {s : State} {i : Nat} (hm : s.inMax ≤ 1024) (hi : i < keyMax s) :
    regAt s (BitVec.ofNat 12 (0x800 + i)) = .keyBuf i := by
  have hk : keyMax s ≤ 640 := by unfold keyMax; omega
  have ha : (BitVec.ofNat 12 (0x800 + i)).toNat = 0x800 + i := by
    rw [BitVec.toNat_ofNat]; omega
  rw [regAt_keyBuf_window (by omega) (by omega), ha, Nat.add_sub_cancel_left, if_pos hi]

theorem regAt_msg_addr (s : State) (k : Fin 8) :
    regAt s (BitVec.ofNat 12 (0x018 + k)) = .msg k := by
  have hk : ∀ k : Fin 8, (BitVec.ofNat 12 (0x018 + k)).toNat < 0x400 ∧
      byteReg (BitVec.ofNat 12 (0x018 + k)).toNat = .msg k := by decide
  rw [regAt_low s (hk k).1, (hk k).2]

theorem regAt_digest_addr (s : State) (k : Fin 20) :
    regAt s (BitVec.ofNat 12 (0x020 + k)) = .digest k := by
  have hk : ∀ k : Fin 20, (BitVec.ofNat 12 (0x020 + k)).toNat < 0x400 ∧
      byteReg (BitVec.ofNat 12 (0x020 + k)).toNat = .digest k := by decide
  rw [regAt_low s (hk k).1, (hk k).2]

theorem regAt_codeAscii_addr (s : State) (k : Fin 6) :
    regAt s (BitVec.ofNat 12 (0x038 + k)) = .codeAscii k := by
  have hk : ∀ k : Fin 6, (BitVec.ofNat 12 (0x038 + k)).toNat < 0x400 ∧
      byteReg (BitVec.ofNat 12 (0x038 + k)).toNat = .codeAscii k := by decide
  rw [regAt_low s (hk k).1, (hk k).2]

/-! ### Reads -/

/-- The word at an address is the word of the register that stands there. -/
theorem busRead_of_regAt {s : State} {a : Addr} {r : Reg} (h : regAt s a = r) :
    busRead s a = readReg s r := by
  rw [busRead, h]

/-- Settles O48: each window's address names its byte, and a byte reads zero-extended. -/
theorem buffersReadAtTheirAddresses : Obligations.BuffersReadAtTheirAddresses := by
  intro s ⟨_, hm⟩
  have zeroExtended (b : Byte) : (b.setWidth 32).toNat = b.toNat :=
    BitVec.toNat_setWidth_of_le (by decide)
  refine ⟨fun i hi => ?inBuf, fun i hi => ?keyBuf, fun k hk => ?msg, fun k hk => ?digest,
    fun k hk => ?codeAscii⟩
  case inBuf => rw [busRead_of_regAt (regAt_inBuf_addr hm hi)]; exact zeroExtended _
  case keyBuf => rw [busRead_of_regAt (regAt_keyBuf_addr hm hi)]; exact zeroExtended _
  case msg => rw [busRead_of_regAt (regAt_msg_addr s ⟨k, hk⟩)]; exact zeroExtended _
  case digest => rw [busRead_of_regAt (regAt_digest_addr s ⟨k, hk⟩)]; exact zeroExtended _
  case codeAscii => rw [busRead_of_regAt (regAt_codeAscii_addr s ⟨k, hk⟩)]; exact zeroExtended _

/-- Two fields side by side, as a number. -/
theorem toNat_append_eq_add {n m : Nat} (x : BitVec n) (y : BitVec m) :
    (x ++ y).toNat = x.toNat * 2 ^ m + y.toNat := by
  rw [BitVec.toNat_append, ← Nat.shiftLeft_add_eq_or_of_lt y.isLt, Nat.shiftLeft_eq]

theorem loHalf_toNat (x : BitVec 64) : (loHalf x).toNat = x.toNat % 2 ^ 32 := by
  simp [loHalf]

theorem hiHalf_toNat (x : BitVec 64) : (hiHalf x).toNat = x.toNat / 2 ^ 32 := by
  have := x.isLt
  simp only [hiHalf, BitVec.extractLsb'_toNat, Nat.shiftRight_eq_div_pow]
  omega

theorem lookup_toNat (s : State) :
    (readReg s .lookup).toNat = 256 * s.lookupValid.toNat + s.lookupValue.toNat := by
  simp only [readReg, toNat_append_eq_add, BitVec.toNat_ofNat, BitVec.toNat_ofBool]
  omega

/-- Settles O52: the map at each address is evaluated, and a field narrower than the word reads
zero-extended. -/
theorem registersReadAtTheirAddresses : Obligations.RegistersReadAtTheirAddresses := by
  intro s
  have zeroExtended {n : Nat} (h : n ≤ 32) (x : BitVec n) : (x.setWidth 32).toNat = x.toNat :=
    BitVec.toNat_setWidth_of_le h
  exact ⟨zeroExtended (by decide) s.errChar, zeroExtended (by decide) s.errPos, lookup_toNat s,
    zeroExtended (by decide) s.inLen, zeroExtended (by decide) s.dec.nchars,
    zeroExtended (by decide) s.dec.bits, zeroExtended (by decide) s.dec.acc,
    zeroExtended (by decide) s.dec.keyLen, loHalf_toNat s.timeMs, hiHalf_toNat s.timeMs, rfl, rfl,
    loHalf_toNat s.ctr, hiHalf_toNat s.ctr, zeroExtended (by decide) s.offset,
    zeroExtended (by decide) s.trunc, zeroExtended (by decide) s.codeBin⟩

theorem busRead_param (s : State) :
    busRead s 0x005 = BitVec.ofNat 16 (keyMax s) ++ BitVec.ofNat 16 s.inMax := rfl

/-- Settles O49: `PARAM` is made of `IN_MAX` alone, which no step changes. -/
theorem paramIsConstant : Obligations.ParamIsConstant := by
  refine ⟨fun s hs => ?value, fun s t h => ?constant⟩
  case value =>
    have hm : s.inMax ≤ 1024 := hs.2
    have hk : keyMax s ≤ 640 := by unfold keyMax; omega
    rw [busRead_param, toNat_append_eq_add, BitVec.toNat_ofNat, BitVec.toNat_ofNat,
      Nat.mod_eq_of_lt (show keyMax s < 2 ^ 16 by omega),
      Nat.mod_eq_of_lt (show s.inMax < 2 ^ 16 by omega), keyMax]
    omega
  case constant => rw [busRead_param, busRead_param, keyMax, keyMax, step_inMax h]

/-! ### `STATUS` -/

theorem statusWord_toNat (s : State) :
    (statusWord s).toNat = (busy s).toNat + 2 * s.overrun.toNat + 4 * (pendBits s.pend).toNat +
      256 * (errCodeBits s.errCode).toNat := by
  simp only [statusWord, toNat_append_eq_add, BitVec.toNat_ofNat, BitVec.toNat_ofBool]
  omega

theorem writeStatus_eq (v : Word) (s : State) :
    writeStatus v s = { s with overrun := s.overrun && !v.getLsbD 1 } := by
  unfold writeStatus
  split <;> simp_all

/-- Settles O40: `STATUS` is the sum of its fields, and a write to it is `writeStatus` whether or
not a request is pending. -/
theorem statusLayoutAndWrite : Obligations.StatusLayoutAndWrite := by
  have write (s : State) (v : Word) :
      hostWrite 0x001 v s = .next { s with overrun := s.overrun && !v.getLsbD 1 } :=
    (hostWrite_status v s).trans (congrArg _ (writeStatus_eq v s))
  refine ⟨fun s => ?layout, write, fun s v rest h => ?step, rfl⟩
  case layout =>
    have hread : (busRead s 0x001).toNat = _ := statusWord_toNat s
    rw [hread, busy]
    congr 1
    · cases s.pend <;> cases s.overrun <;> rfl
    · cases s.errCode <;> rfl
  case step => rw [step_hostWrite h, write]

end Sys2Proof.Machine
end

section
/-! PROOFS. Reads after an accepted write (R23, R66, R67). -/

namespace Sys2Proof.Machine

open Sys2Proof.Claims

/-! ### Which registers a write reaches -/

/-- The bits a host write stores in a register, for the RW registers (R62). -/
def fieldMask : Reg → Option Word
  | .inLen => some 0x0000FFFF
  | .timeMsLo | .timeMsHi | .timeStep | .timeOffset | .ctrLo | .ctrHi => some 0xFFFFFFFF
  | .digest _ | .inBuf _ => some 0x000000FF
  | _ => none

theorem fieldMask_byteReg : ∀ n, n < 0x400 → fieldMask (byteReg n) = storedBits 0 n := by
  decide +kernel

theorem storedBits_low {n : Nat} (inMax : Nat) (h : n < 0x400) :
    storedBits inMax n = storedBits 0 n := by
  have hle : ¬ 0x400 ≤ n := by omega
  simp only [storedBits, hle, false_and]

theorem storedBits_high {n : Nat} (inMax : Nat) (h : 0x400 ≤ n) :
    storedBits inMax n = if n < 0x400 + inMax then some 0x000000FF else none := by
  rw [storedBits, if_neg (by omega), if_neg (by omega), if_neg (by omega)]
  simp only [h, true_and]

/-- The address map and the statement's table of RW addresses agree (R62). -/
theorem fieldMask_regAt {s : State} (hm : s.inMax ≤ 1024) (a : Addr) :
    fieldMask (regAt s a) = storedBits s.inMax a.toNat := by
  by_cases hlow : a.toNat < 0x400
  · rw [regAt_low s hlow, storedBits_low _ hlow, fieldMask_byteReg _ hlow]
  rw [storedBits_high _ (by omega)]
  by_cases hin : a.toNat < 0x800
  · rw [regAt_inBuf_window (by omega) hin]
    by_cases hi : a.toNat - 0x400 < s.inMax
    · rw [if_pos hi, if_pos (by omega)]; rfl
    · rw [if_neg hi, if_neg (by omega)]; rfl
  rw [if_neg (by omega)]
  by_cases hkey : a.toNat < 0xC00
  · rw [regAt_keyBuf_window (by omega) hkey]
    split <;> rfl
  · rw [regAt_high (by omega)]; rfl

/-- A write to a register that is not RW is ignored (R23, R64). -/
theorem writeReg_of_fieldMask_none {r : Reg} (h : fieldMask r = none) (v : Word) (s : State) :
    writeReg v s r = s := by
  cases r with
  | inLen | timeMsLo | timeMsHi | timeStep | timeOffset | ctrLo | ctrHi | digest | inBuf => cases h
  | _ => rfl

/-! ### Halves and fields -/

@[simp] theorem loHalf_setLoHalf (x : BitVec 64) (v : Word) : loHalf (setLoHalf x v) = v :=
  BitVec.extractLsb'_append_eq_right

@[simp] theorem hiHalf_setLoHalf (x : BitVec 64) (v : Word) : hiHalf (setLoHalf x v) = hiHalf x :=
  BitVec.extractLsb'_append_eq_left

@[simp] theorem loHalf_setHiHalf (x : BitVec 64) (v : Word) : loHalf (setHiHalf x v) = loHalf x :=
  BitVec.extractLsb'_append_eq_right

@[simp] theorem hiHalf_setHiHalf (x : BitVec 64) (v : Word) : hiHalf (setHiHalf x v) = v :=
  BitVec.extractLsb'_append_eq_left

/-- A field of `n` bits keeps the low `n` bits of the word written to it. -/
theorem setWidth_setWidth_eq_and (v : Word) {n : Nat} (h : n ≤ 32) :
    (v.setWidth n).setWidth 32 = v &&& BitVec.ofNat 32 (2 ^ n - 1) := by
  have hmask : 2 ^ n - 1 < 2 ^ 32 :=
    (Nat.sub_lt (Nat.two_pow_pos n) Nat.one_pos).trans_le (Nat.pow_le_pow_right (by decide) h)
  apply BitVec.eq_of_toNat_eq
  rw [BitVec.toNat_setWidth_of_le h, BitVec.toNat_setWidth, BitVec.toNat_and,
    BitVec.toNat_ofNat, Nat.mod_eq_of_lt hmask, Nat.and_two_pow_sub_one_eq_mod]

/-- A field of 32 bits stores the whole word. -/
theorem and_fullMask (v : Word) : v &&& 0xFFFFFFFF = v := BitVec.and_allOnes

/-! ### One register read after a write -/

/-- A RW register reads as the written word's field bits. -/
theorem readReg_writeReg_same {s : State} (hw : Memory.wf s.inBuf = true) {r : Reg} {m : Word}
    (h : fieldMask r = some m) (v : Word) : readReg (writeReg v s r) r = v &&& m := by
  cases r with
  | inLen => cases h; exact setWidth_setWidth_eq_and v (n := 16) (by decide)
  | timeMsLo => cases h; rw [and_fullMask]; exact loHalf_setLoHalf s.timeMs v
  | timeMsHi => cases h; rw [and_fullMask]; exact hiHalf_setHiHalf s.timeMs v
  | timeStep => cases h; rw [and_fullMask]; rfl
  | timeOffset => cases h; rw [and_fullMask]; rfl
  | ctrLo => cases h; rw [and_fullMask]; exact loHalf_setLoHalf s.ctr v
  | ctrHi => cases h; rw [and_fullMask]; exact hiHalf_setHiHalf s.ctr v
  | digest k =>
    cases h
    simpa [readReg, writeReg] using setWidth_setWidth_eq_and v (n := 8) (by decide)
  | inBuf i =>
    cases h
    simpa [readReg, writeReg, Memory.read_write hw] using
      setWidth_setWidth_eq_and v (n := 8) (by decide)
  | _ => cases h

/-- Every other register reads as before. -/
theorem readReg_writeReg_ne (v : Word) (s : State) {r q : Reg} (h : q ≠ r) :
    readReg (writeReg v s r) q = readReg s q := by
  cases r with
  | inLen =>
    cases q with
    | inLen => exact absurd rfl h
    | _ => rfl
  | timeMsLo =>
    cases q with
    | timeMsLo => exact absurd rfl h
    | timeMsHi => exact hiHalf_setLoHalf s.timeMs v
    | _ => rfl
  | timeMsHi =>
    cases q with
    | timeMsLo => exact loHalf_setHiHalf s.timeMs v
    | timeMsHi => exact absurd rfl h
    | _ => rfl
  | timeStep =>
    cases q with
    | timeStep => exact absurd rfl h
    | _ => rfl
  | timeOffset =>
    cases q with
    | timeOffset => exact absurd rfl h
    | _ => rfl
  | ctrLo =>
    cases q with
    | ctrLo => exact absurd rfl h
    | ctrHi => exact hiHalf_setLoHalf s.ctr v
    | _ => rfl
  | ctrHi =>
    cases q with
    | ctrLo => exact loHalf_setHiHalf s.ctr v
    | ctrHi => exact absurd rfl h
    | _ => rfl
  | digest k =>
    cases q with
    | digest j =>
      have hne : (k : Nat) ≠ j := fun hkj => h (congrArg Reg.digest (Fin.ext hkj.symm))
      simp [readReg, writeReg, Vector.getElem_set_ne _ _ hne]
    | _ => rfl
  | inBuf i =>
    cases q with
    | inBuf j =>
      have hne : j ≠ i := fun hji => h (congrArg Reg.inBuf hji)
      simp [readReg, writeReg, Memory.read_write_ne _ _ hne]
    | _ => rfl
  | _ => rfl

/-! ### One address read after a write -/

/-- A write to a RW register is read back at its address, cut to the register's field. -/
theorem busRead_writeReg_same {s : State} (hw : Memory.wf s.inBuf = true) {a : Addr} {m : Word}
    (h : fieldMask (regAt s a) = some m) (v : Word) :
    busRead (writeReg v s (regAt s a)) a = v &&& m := by
  rw [busRead, regAt_congr (writeReg_inMax ..)]
  exact readReg_writeReg_same hw h v

/-- A write leaves every other address as it was: two addresses name one register only when it is
`unmapped`, which no write reaches. -/
theorem busRead_writeReg_ne {s : State} {a b : Addr} (h : b ≠ a) (v : Word) :
    busRead (writeReg v s (regAt s a)) b = busRead s b := by
  have hmap : regAt (writeReg v s (regAt s a)) b = regAt s b := regAt_congr (writeReg_inMax ..) b
  rw [busRead, busRead, hmap]
  by_cases hu : regAt s a = .unmapped
  · rw [hu]; rfl
  · exact readReg_writeReg_ne v s fun hq => h (regAt_inj hq.symm hu).symm

/-- Settles O47: the step takes the register write, whose reads are the lemmas above. -/
theorem busWriteThenRead : Obligations.BusWriteThenRead := by
  intro s a v rest hs hp hc ha hi
  have hs' := hs.taken rest
  have hmask := fieldMask_regAt hs'.param.2 a
  have hwrite := hostWrite_reg (s := { s with inbox := rest }) v ha hc hp
  refine ⟨_, (step_hostWrite hi).trans hwrite, hwrite, writeReg_inbox .., writeReg_readData ..,
    fun m hm => ?readBack, fun hnone => ?ignored, fun b hb => busRead_writeReg_ne hb v⟩
  case readBack => exact busRead_writeReg_same hs'.buffers.inBuf_wf (hmask.trans hm) v
  case ignored => exact writeReg_of_fieldMask_none (hmask.trans hnone) v _

end Sys2Proof.Machine
end

section
/-! PROOFS. The bus while idle and while a request is pending: reads, unmapped addresses, dropped
writes (R64, R65, R73) and the state a pending request freezes (R74, R75). -/

namespace Sys2Proof.Machine

open Sys2Proof.Claims

/-! ### Reads -/

/-- No address shows the model's own fields. -/
theorem busRead_modelFields (s : State) (inbox : List Input) (readData : Option Word) (b : Addr) :
    busRead { s with inbox := inbox, readData := readData } b = busRead s b := by
  have hmap : regAt { s with inbox := inbox, readData := readData } b = regAt s b :=
    regAt_congr rfl b
  rw [busRead, busRead, hmap]
  cases regAt s b <;> rfl

/-- Settles O45: the step is `hostRead`, which writes the model's own `readData` only. -/
theorem readsHaveNoSideEffects : Obligations.ReadsHaveNoSideEffects := by
  intro s a rest h
  refine ⟨⟨_, step_hostRead h, rfl, ?_, busRead_modelFields s rest _⟩, rfl⟩
  exact congrArg some (busRead_modelFields s rest s.readData a)

/-! ### Unmapped addresses -/

/-- Below the buffer windows, what R62 lists as unmapped names no register. -/
theorem byteReg_unmapped :
    ∀ n, n < 0x400 → UnmappedAddress 0 n → byteReg n = .unmapped := by
  unfold UnmappedAddress
  decide +kernel

/-- What R62 lists as unmapped the address map leaves unmapped, at every `IN_MAX`. -/
theorem regAt_unmapped {s : State} {a : Addr} (h : UnmappedAddress s.inMax a.toNat) :
    regAt s a = .unmapped := by
  by_cases hlow : a.toNat < 0x400
  · rw [regAt_low s hlow]
    refine byteReg_unmapped _ hlow ?_
    unfold UnmappedAddress at h ⊢
    omega
  unfold UnmappedAddress at h
  by_cases hin : a.toNat < 0x800
  · rw [regAt_inBuf_window (by omega) hin, if_neg (by omega)]
  by_cases hkey : a.toNat < 0xC00
  · rw [regAt_keyBuf_window (by omega) hkey, if_neg (by unfold keyMax; omega)]
  · exact regAt_high (by omega)

/-- While idle, a write to an unmapped address is ignored (R64). -/
theorem hostWrite_unmapped {s : State} {a : Addr} (v : Word) (hp : s.pend = .none)
    (h : regAt s a = .unmapped) : hostWrite a v s = .next s := by
  have hstatus : a ≠ statusAddr := by rintro rfl; cases h
  have hcmd : a ≠ cmdAddr := by rintro rfl; cases h
  rw [hostWrite_reg v hstatus hcmd hp, h]
  rfl

/-- Settles O46: the address names no register, before and after the input is taken off. -/
theorem unmappedAddressesAreInert : Obligations.UnmappedAddressesAreInert := by
  intro s a _ ha
  have hr := regAt_unmapped ha
  refine ⟨busRead_of_regAt hr, fun hp v => ⟨hostWrite_unmapped v hp hr, fun rest hi => ?_⟩⟩
  rw [step_hostWrite hi]
  exact hostWrite_unmapped v hp hr

/-! ### A pending request -/

/-- Settles O41: a case each for a dropped write, a `STATUS` write and a read. -/
theorem busyDropsWrites : Obligations.BusyDropsWrites := by
  intro s rest hp
  refine ⟨fun a v ha hi => ?dropped, fun v hi => ?status, fun a hi => ?read⟩
  case dropped =>
    rw [step_hostWrite hi]
    exact hostWrite_busy v ha hp
  case status =>
    rw [step_hostWrite hi]
    exact (hostWrite_status v _).trans (congrArg _ (writeStatus_eq v _))
  case read =>
    rw [step_hostRead hi, hostRead, busRead_modelFields s rest s.readData a]

/-- A step that takes no response and no reset leaves a pending request and the whole block as they
are, but for `OVERRUN`. -/
theorem step_pending_frame {s t : State} (hp : s.pend ≠ .none)
    (hx : ∀ x ∈ s.inbox.take 1, x ≠ .engineRespond ∧ x ≠ .reset) (h : step s = .next t) :
    t = { s with inbox := s.inbox.drop 1, overrun := t.overrun, readData := t.readData } := by
  cases step_effect h with
  | idle hi =>
    have hdrop : s.inbox.drop 1 = s.inbox := by rw [hi]; rfl
    rw [hdrop]
  | read a rest hi => rw [hi]; rfl
  | statusWrite v rest hi => rw [hi, writeStatus_eq]; rfl
  | droppedWrite a v rest hi ha _ => rw [hi]; rfl
  | raised w rest e hi hidle => exact absurd hidle hp
  | completed w rest i u hi hidle hd hu => exact absurd hidle hp
  | regWrite a v rest hi ha hc hidle => exact absurd hidle hp
  | respondedHmac rest hi _ => simp [hi] at hx
  | respondedGen rest hi _ => simp [hi] at hx
  | reset rest hi => simp [hi] at hx

/-- A run of `k + 1` steps that ends in a state is one step and a run of `k`. -/
theorem run_succ_next {k : Nat} {s t : State} (h : Host.Core.run core (k + 1) s = .next t) :
    ∃ u, step s = .next u ∧ Host.Core.run core k u = .next t := by
  simp only [Host.Core.run] at h
  split at h
  next u hu => exact ⟨u, hu, h⟩
  next => cases h
  next => cases h

/-- Settles O42: by induction on the number of steps, one step's frame at a time. -/
theorem pendingRequestFreezesTheBlock : Obligations.PendingRequestFreezesTheBlock := by
  intro k
  induction k with
  | zero => intro s t _ _ h; cases h; rfl
  | succ k ih =>
    intro s t hp hx h
    obtain ⟨u, hstep, hrun⟩ := run_succ_next h
    have hfirst : ∀ x ∈ s.inbox.take 1, x ≠ .engineRespond ∧ x ≠ .reset := fun x hm =>
      hx x (List.take_subset_take_left _ (by omega) hm)
    have hu := step_pending_frame hp hfirst hstep
    have hpend : u.pend = s.pend := by rw [hu]
    have hinbox : u.inbox = s.inbox.drop 1 := by rw [hu]
    have hlater : ∀ x ∈ u.inbox.take k, x ≠ .engineRespond ∧ x ≠ .reset := fun x hm => by
      rw [hinbox, ← Nat.add_sub_cancel (n := k) (m := 1), ← List.drop_take] at hm
      exact hx x (List.mem_of_mem_drop hm)
    have ht := ih u t (hpend ▸ hp) hlater hrun
    rw [hinbox, List.drop_drop, Nat.add_comm 1 k, hu] at ht
    exact ht

end Sys2Proof.Machine
end

section
/-! PROOFS. The counter's message, and the counter a host writes as two halves (R69, R70, R145). -/

namespace Sys2Proof.Machine

open Sys2Proof.Claims

/-- The message of the counter is the counter, big-endian (R145). -/
theorem beValue_encodeCounter (s : State) :
    beValue 256 ((encodeCounter s).msg.toList.map BitVec.toNat) = s.ctr.toNat := by
  have hdigits : (encodeCounter s).msg.toList.map BitVec.toNat =
      List.ofFn fun k : Fin 8 => s.ctr.toNat / 2 ^ (56 - 8 * k.val) % 256 := by
    simp [Vector.toList, List.ofFn_succ, Nat.shiftRight_eq_div_pow]
  have hlt := s.ctr.isLt
  rw [hdigits]
  simp [beValue]
  omega

/-- Both halves written, low half first, are the pair (R69, R70). -/
theorem setHiHalf_setLoHalf_toNat (x : BitVec 64) (lo hi : Word) :
    (setHiHalf (setLoHalf x lo) hi).toNat = hi.toNat * 2 ^ 32 + lo.toNat := by
  rw [setHiHalf, loHalf_setLoHalf, toNat_append_eq_add]

/-- Settles O28: the two writes make `CTR` the pair, and the message is `CTR`. -/
theorem hostWrittenCounterIsEncoded : Obligations.HostWrittenCounterIsEncoded := by
  intro s lo hi hp
  have hlo : hostWrite 0x014 lo s = .next (writeReg lo s .ctrLo) :=
    hostWrite_reg lo (by decide) (by decide) hp
  have hhi : hostWrite 0x015 hi (writeReg lo s .ctrLo) =
      .next (writeReg hi (writeReg lo s .ctrLo) .ctrHi) :=
    hostWrite_reg hi (by decide) (by decide) hp
  refine ⟨_, _, _, hlo, hhi, rfl, ?_⟩
  exact (beValue_encodeCounter _).trans (setHiHalf_setLoHalf_toNat s.ctr lo hi)

end Sys2Proof.Machine
end

section
/-! PROOFS. The command words (R90-R98): decode takes an encoding's fields back, the encodings are
the only words that decode, and R95's steps agree with R94's match and mask. -/

namespace Sys2Proof

/-! ### The fields of a word put together from fields (R91, R92) -/

@[simp] theorem opcodeOf_wordN (op : Byte) : opcodeOf (wordN op) = op := by
  have := op.isLt
  apply BitVec.eq_of_toNat_eq
  rw [opcodeOf_toNat, wordN_toNat]
  omega

@[simp] theorem reservedZeroN_wordN (op : Byte) : reservedZeroN (wordN op) = true := by
  rw [reservedZeroN_iff, wordN_toNat]
  exact op.isLt

@[simp] theorem opcodeOf_wordC (op c : Byte) : opcodeOf (wordC op c) = op := by
  have := op.isLt
  apply BitVec.eq_of_toNat_eq
  rw [opcodeOf_toNat, wordC_toNat]
  omega

@[simp] theorem charOf_wordC (op c : Byte) : charOf (wordC op c) = c := by
  have := op.isLt
  have := c.isLt
  apply BitVec.eq_of_toNat_eq
  rw [charOf_toNat, wordC_toNat]
  omega

@[simp] theorem reservedZeroC_wordC (op c : Byte) : reservedZeroC (wordC op c) = true := by
  have := op.isLt
  have := c.isLt
  rw [reservedZeroC_iff, wordC_toNat]
  omega

/-! ### Decode of encode -/

theorem decode_wordN {op : Byte} {i : Instr} (h : formatN op = some i) :
    decode (wordN op) = .command i := by
  simp [decode, h]

/-- An opcode of format C is none of format N, so R95's steps reach the second format. -/
theorem decode_wordC {op c : Byte} {i : Instr} (hN : formatN op = none)
    (hC : formatC op c = some i) : decode (wordC op c) = .command i := by
  simp [decode, hN, hC]

theorem decode_encode (i : Instr) : decode (encode i) = .command i := by
  cases i with
  | decLookup c => exact decode_wordC (op := 0x02) rfl rfl
  | decPush c => exact decode_wordC (op := 0x03) rfl rfl
  | _ => exact decode_wordN rfl

/-- Settles O5: each command's word is one of its format, whose fields decode takes back. -/
theorem decodeOfEncode : Obligations.DecodeOfEncode := decode_encode

/-- Settles O6: the only word with a command's opcode, its character and zero reserved bits is its
encoding. -/
theorem encodeOfDecode : Obligations.EncodeOfDecode := fun _ _ h => encode_of_decode h

/-- Settles O4: the legal words are encodings, and the two illegal ones are evaluated. -/
theorem specWordsDecode : Obligations.SpecWordsDecode :=
  ⟨decode_encode .decClear, decode_encode (.decLookup 0x7A), decode_encode (.decPush 0x47),
    decode_encode .decString, decode_encode .ctrDerive, decode_encode .ctrEncode,
    decode_encode .hmacStart, decode_encode .truncate, decode_encode .mod1m,
    decode_encode .format, decode_encode .generate, by decide, by decide⟩

/-! ### The opcode map (R94) -/

theorem opcodeOf_masked (w : Word) : opcodeOf (w &&& 0xFFFF00FF) = opcodeOf w := by
  rw [opcodeOf, opcodeOf, BitVec.extractLsb'_and]
  exact BitVec.and_allOnes

theorem reservedZeroC_masked (w : Word) :
    reservedZeroC (w &&& 0xFFFF00FF) = reservedZeroC w := by
  rw [reservedZeroC, reservedZeroC, BitVec.extractLsb'_and]
  exact congrArg (· == 0) BitVec.and_allOnes

/-- Format C's mask leaves out the character: a word that matches an opcode under it is the word of
that opcode with the word's own character. -/
theorem wordC_charOf_of_masked {w : Word} {op : Byte} (h : w &&& 0xFFFF00FF = wordC op 0) :
    wordC op (charOf w) = w := by
  have hop : opcodeOf w = op := by rw [← opcodeOf_masked, h, opcodeOf_wordC]
  have hreserved : reservedZeroC w = true := by rw [← reservedZeroC_masked, h, reservedZeroC_wordC]
  rw [← hop, wordC_opcodeOf_charOf hreserved]

/-- The row is of format N: its mask keeps every bit, and its one word is a command's. -/
def OpcodeRow.IsFormatN (r : OpcodeRow) : Prop :=
  r.mask = 0xFFFFFFFF ∧ ∃ i, encode i = r.value ∧ i.mnemonic = r.mnemonic

/-- The row is of format C: its mask leaves the character out, and with each it is a command's. -/
def OpcodeRow.IsFormatC (r : OpcodeRow) : Prop :=
  r.mask = 0xFFFF00FF ∧ ∃ op, r.value = wordC op 0 ∧
    ∀ c, ∃ i, encode i = wordC op c ∧ i.mnemonic = r.mnemonic

theorem opcodeTable_formats : ∀ r ∈ opcodeTable, r.IsFormatN ∨ r.IsFormatC := by
  simp only [opcodeTable, List.forall_mem_cons]
  exact ⟨.inl ⟨rfl, .decClear, rfl, rfl⟩,
    .inr ⟨rfl, 0x02, rfl, fun c => ⟨.decLookup c, rfl, rfl⟩⟩,
    .inr ⟨rfl, 0x03, rfl, fun c => ⟨.decPush c, rfl, rfl⟩⟩,
    .inl ⟨rfl, .decString, rfl, rfl⟩,
    .inl ⟨rfl, .ctrDerive, rfl, rfl⟩,
    .inl ⟨rfl, .ctrEncode, rfl, rfl⟩,
    .inl ⟨rfl, .hmacStart, rfl, rfl⟩,
    .inl ⟨rfl, .truncate, rfl, rfl⟩,
    .inl ⟨rfl, .mod1m, rfl, rfl⟩,
    .inl ⟨rfl, .format, rfl, rfl⟩,
    .inl ⟨rfl, .generate, rfl, rfl⟩,
    List.forall_mem_nil _⟩

/-- A word that selects a row encodes the row's command. -/
theorem encode_of_row {w : Word} {r : OpcodeRow} (hr : r ∈ opcodeTable)
    (h : w &&& r.mask = r.value) : ∃ i, encode i = w ∧ i.mnemonic = r.mnemonic := by
  rcases opcodeTable_formats r hr with ⟨hmask, i, hi, hname⟩ | ⟨hmask, op, hop, hall⟩
  · have hw : w = r.value := by
      rw [← h, hmask]
      exact BitVec.and_allOnes.symm
    exact ⟨i, hi.trans hw.symm, hname⟩
  · obtain ⟨i, hi, hname⟩ := hall (charOf w)
    rw [hmask, hop] at h
    exact ⟨i, hi.trans (wordC_charOf_of_masked h), hname⟩

theorem decode_of_row {w : Word} {r : OpcodeRow} (hr : r ∈ opcodeTable)
    (h : w &&& r.mask = r.value) : ∃ i, decode w = .command i ∧ i.mnemonic = r.mnemonic := by
  obtain ⟨i, rfl, hname⟩ := encode_of_row hr h
  exact ⟨i, decode_encode i, hname⟩

theorem rowOfWord (i : Instr) : Laws.RowOfWord.Statement i := by
  cases i with
  | decClear => exact Laws.RowOfWord.decClear
  | decLookup c => exact Laws.RowOfWord.decLookup c
  | decPush c => exact Laws.RowOfWord.decPush c
  | decString => exact Laws.RowOfWord.decString
  | ctrDerive => exact Laws.RowOfWord.ctrDerive
  | ctrEncode => exact Laws.RowOfWord.ctrEncode
  | hmacStart => exact Laws.RowOfWord.hmacStart
  | truncate => exact Laws.RowOfWord.truncate
  | mod1m => exact Laws.RowOfWord.mod1m
  | format => exact Laws.RowOfWord.format
  | generate => exact Laws.RowOfWord.generate

theorem row_of_decode {w : Word} {i : Instr} (h : decode w = .command i) :
    ∃ r ∈ opcodeTable, w &&& r.mask = r.value ∧ i.mnemonic = r.mnemonic := by
  obtain ⟨r, hr, hname, hsel⟩ := rowOfWord i
  rw [encode_of_decode h] at hsel
  exact ⟨r, hr, beq_iff_eq.1 hsel, hname.symm⟩

theorem opcodeTable_mnemonic_injective :
    ∀ r ∈ opcodeTable, ∀ r' ∈ opcodeTable, r.mnemonic = r'.mnemonic → r = r' := by
  decide

/-- Settles O3: selecting a row and decoding are both being the encoding of a command, and two rows
of one word would name the one command it decodes to. -/
theorem decodeAgreesWithOpcodeTable : Obligations.DecodeAgreesWithOpcodeTable := by
  intro w
  refine ⟨fun r hr h => decode_of_row hr h, fun i h => row_of_decode h, ?unique⟩
  case unique =>
    intro r hr r' hr' h h'
    obtain ⟨i, hi, hname⟩ := decode_of_row hr h
    obtain ⟨i', hi', hname'⟩ := decode_of_row hr' h'
    have hsame : i = i' := by simpa [hi] using hi'
    refine opcodeTable_mnemonic_injective r hr r' hr' ?_
    rw [← hname, ← hname', hsame]

end Sys2Proof
end

section
/-! PROOFS. The decoder's single commands (R110-R119): `DEC_CLEAR`, `DEC_LOOKUP` and `DEC_PUSH`,
with the repacking step they rest on. -/

namespace Sys2Proof.Machine

open Sys2Proof.Claims

/-- A format-C word as the number the statements write it (R92). -/
theorem wordC_eq_ofNat (op c : Byte) : wordC op c = BitVec.ofNat 32 (c.toNat * 256 + op.toNat) := by
  rw [← wordC_toNat, BitVec.ofNat_toNat, BitVec.setWidth_eq]

/-! ### `DEC_CLEAR` -/

/-- Settles O14: `DEC_CLEAR` writes the same cleared decoder whatever it finds. -/
theorem decClearResult : Obligations.DecClearResult :=
  ⟨decode_encode .decClear, fun _ =>
    ⟨_, rfl, rfl, rfl, rfl, rfl, rfl, Memory.read_nil, rfl⟩⟩

/-! ### Characters -/

/-- R111 and R112 composed are R113's table. -/
theorem b32val_norm_eq_tableValue :
    ∀ c : Byte, (b32val (norm c)).map BitVec.toNat = tableValue c.toNat := by
  decide +kernel

theorem symbolOf_eq_tableValue (c : Byte) : symbolOf c = (tableValue c.toNat).getD 0 := by
  rw [← b32val_norm_eq_tableValue, symbolOf]
  cases b32val (norm c) <;> rfl

/-- Settles O15: the lookup completes with the symbol value, which is the table's. -/
theorem decLookupResult : Obligations.DecLookupResult := by
  refine ⟨fun c => ?word, fun c s => ⟨_, execDecLookup_eq c s, rfl, ?valid, ?value⟩, by decide⟩
  case word => exact wordC_eq_ofNat 0x02 c ▸ decode_encode (.decLookup c)
  case valid => rw [← b32val_norm_eq_tableValue, Option.isSome_map]; rfl
  case value => exact symbolOf_eq_tableValue c

/-! ### The repacking step -/

/-- The weight of a digit in base 32, in bits. -/
theorem pow_32_eq (n : Nat) : 32 ^ n = 2 ^ (5 * n) := (pow_mul 2 5 n).symm

/-- The weight of a byte, in bits. -/
theorem pow_256_eq (n : Nat) : 256 ^ n = 2 ^ (8 * n) := (pow_mul 2 8 n).symm

/-- A symbol in makes room for a byte out. -/
theorem two_pow_mul_32 {bits : Nat} (h : 8 ≤ bits + 5) :
    2 ^ bits * 32 = 256 * 2 ^ (bits + 5 - 8) := by
  calc 2 ^ bits * 32 = 2 ^ (8 + (bits + 5 - 8)) := by rw [Nat.add_sub_cancel' h, pow_add]; rfl
    _ = 256 * 2 ^ (bits + 5 - 8) := pow_add 2 8 _

/-- The byte that a repacking step emits and the accumulator it keeps are, together, the accumulator
it had and the symbol (R114). -/
theorem repack_emit_value {acc bits v : Nat} (ha : acc < 2 ^ bits) (hv : v < 32)
    (h : 8 ≤ bits + 5) :
    (acc * 32 + v) / 2 ^ (bits + 5 - 8) % 256 * 2 ^ (bits + 5 - 8) +
      (acc * 32 + v) % 2 ^ (bits + 5 - 8) = acc * 32 + v := by
  have hpow := two_pow_mul_32 h
  have hbyte : (acc * 32 + v) / 2 ^ (bits + 5 - 8) < 256 :=
    Nat.div_lt_of_lt_mul (by rw [Nat.mul_comm]; omega)
  rw [Nat.mod_eq_of_lt hbyte, Nat.div_add_mod']

/-- Settles O16: the two cases of a repacking step. -/
theorem repackStepKeepsEveryBit : Obligations.RepackStepKeepsEveryBit := by
  intro acc bits v hbits hacc hv
  by_cases h : bits + 5 < 8
  case pos =>
    rw [repack_hold (by omega) h]
    refine ⟨by dsimp only; omega, ?_, fun _ => ⟨rfl, rfl, rfl⟩, fun h' => absurd h' (by omega)⟩
    dsimp only
    rw [pow_add]
    omega
  case neg =>
    have h' : 8 ≤ bits + 5 := by omega
    rw [repack_emit (by omega) h']
    exact ⟨by dsimp only; omega, Nat.mod_lt _ (Nat.two_pow_pos _), fun hlt => absurd hlt h,
      fun _ => ⟨_, rfl, Nat.mod_lt _ (by decide), rfl, repack_emit_value hacc (by omega) h'⟩⟩

/-! ### Taking one symbol: the registers as numbers -/

theorem pushSymbol_nchars_toNat {d : Decoder} (v : BitVec 5) (h : d.nchars.toNat + 1 < 2 ^ 16) :
    (pushSymbol d v).nchars.toNat = d.nchars.toNat + 1 := by
  rw [pushSymbol_nchars, BitVec.toNat_add_of_lt (by simpa using h)]; rfl

theorem pushSymbol_keyLen_emit_toNat {d : Decoder} (v : BitVec 5) (h : 8 ≤ d.bits.toNat + 5)
    (hk : d.keyLen.toNat + 1 < 2 ^ 16) :
    (pushSymbol d v).keyLen.toNat = d.keyLen.toNat + 1 := by
  rw [pushSymbol_keyLen_emit v h, BitVec.toNat_add_of_lt (by simpa using hk)]; rfl

/-- The accumulator's register holds all of the step's accumulator (R33). -/
theorem pushSymbol_acc_toNat {d : Decoder} (v : BitVec 5) (ha : d.acc.toNat < 2 ^ d.bits.toNat) :
    (pushSymbol d v).acc.toNat = (decoderStep d v).acc := by
  have hbits : (decoderStep d v).bits ≤ 7 := by rw [decoderStep_bits]; omega
  rw [pushSymbol_acc, BitVec.toNat_ofNat, Nat.mod_eq_of_lt]
  exact (decoderStep_acc_lt v ha).trans_le (Nat.pow_le_pow_right (by decide) hbits)

theorem pushSymbol_acc_hold {d : Decoder} (v : BitVec 5) (ha : d.acc.toNat < 2 ^ d.bits.toNat)
    (h : d.bits.toNat + 5 < 8) :
    (pushSymbol d v).acc.toNat = d.acc.toNat * 32 + v.toNat := by
  rw [pushSymbol_acc_toNat v ha, decoderStep_hold v h]

/-- No bit is lost: the byte stored at `KEY_LEN` and the accumulator kept are the accumulator before
and the symbol (R114, R119). -/
theorem pushSymbol_emit_value {d : Decoder} (v : BitVec 5) (hw : Memory.wf d.keyBuf = true)
    (ha : d.acc.toNat < 2 ^ d.bits.toNat) (h : 8 ≤ d.bits.toNat + 5) :
    (Memory.read (pushSymbol d v).keyBuf d.keyLen.toNat).toNat * 2 ^ (pushSymbol d v).bits.toNat +
      (pushSymbol d v).acc.toNat = d.acc.toNat * 32 + v.toNat := by
  have hstep := decoderStep_emit v h
  rw [(pushSymbol_some (by rw [hstep])).2, Memory.read_write hw, if_pos rfl, BitVec.toNat_ofNat,
    Nat.mod_mod, pushSymbol_acc_toNat v ha, pushSymbol_bits_toNat, ← decoderStep_bits d v, hstep]
  exact repack_emit_value ha v.isLt h

/-! ### `DEC_PUSH` -/

/-- Take a valid character into the decoder. -/
def takeChar (d : Decoder) (c : Byte) : Decoder := pushSymbol d ((b32val (norm c)).getD 0)

theorem execDecPush_full {c : Byte} {s : State} (hn : s.dec.nchars.toNat = s.inMax) :
    exec (.decPush c) s = .next (raise .lengthError s) := by
  rw [exec, execDecPush, if_pos hn]

/-- The normalised byte that is recorded is the byte as written (R202). -/
theorem execDecPush_invalid {c : Byte} {s : State} (hn : s.dec.nchars.toNat ≠ s.inMax)
    (hc : b32val (norm c) = none) :
    exec (.decPush c) s = .next (raise (.invalidCharacter c s.dec.nchars) s) := by
  simp only [exec, execDecPush, if_neg hn, hc]
  rw [norm_of_b32val_none c hc]

theorem execDecPush_valid {c : Byte} {s : State} (hs : DecoderInv s)
    (hn : s.dec.nchars.toNat ≠ s.inMax) (hc : (b32val (norm c)).isSome = true) :
    exec (.decPush c) s = .next (succeed { s with dec := takeChar s.dec c }) := by
  obtain ⟨v, hv⟩ := Option.isSome_iff_exists.1 hc
  have hroom := hs.keyHasRoom (lt_of_le_of_ne hs.nchars_le hn) v
  simp only [exec, execDecPush, if_neg hn, hv, hroom, if_true, takeChar, Option.getD_some]

/-- Settles O17: one case for each check and one for each way of repacking. -/
theorem decPushResult : Obligations.DecPushResult := by
  refine ⟨fun c => wordC_eq_ofNat 0x03 c ▸ decode_encode (.decPush c), fun c s hs => ?_⟩
  refine ⟨execDecPush_full, execDecPush_invalid, fun hn hc => ?_⟩
  obtain ⟨hnchars, _, hlen, hacc, -⟩ := hs.decoder
  have hm : s.inMax ≤ 1024 := hs.param.2
  refine ⟨_, execDecPush_valid hs.decoder hn hc, rfl, pushSymbol_nchars_toNat _ (by omega),
    pushSymbol_bits_toNat _ _, fun h => ?hold, fun h => ?emit⟩
  case hold =>
    exact ⟨pushSymbol_acc_hold _ hacc h, pushSymbol_keyLen_hold _ h,
      fun i => congrArg (Memory.read · i) (pushSymbol_keyBuf_hold _ h)⟩
  case emit =>
    have hroom : s.dec.keyLen.toNat < keyMax s := by
      have hlt := lt_of_le_of_ne hnchars hn
      simpa [keyHasRoom, decoderStep_emit 0#5 h] using hs.decoder.keyHasRoom hlt 0#5
    exact ⟨pushSymbol_emit_value _ hs.buffers.keyBuf_wf hacc h, pushSymbol_acc_lt _ hacc,
      pushSymbol_keyLen_emit_toNat _ h (by omega), hroom, fun _ hi => pushSymbol_read_ne _ _ hi⟩

end Sys2Proof.Machine
end

section
/-! PROOFS. `DEC_STRING` (R118, R120-R122): what the decoder holds after the characters it has
taken, and the loop and the pushes that take them. -/

namespace Sys2Proof.Machine

open Sys2Proof.Claims

/-! ### Numbers from digits -/

theorem beValue_concat (base : Nat) (xs : List Nat) (x : Nat) :
    beValue base (xs ++ [x]) = beValue base xs * base + x := by
  simp [beValue]

/-! ### Padding -/

/-- What is left of a token ends in no padding character (R121). -/
theorem read_strippedLen_sub_one_ne (buf : Memory) :
    ∀ n, 0 < strippedLen buf n → Memory.read buf (strippedLen buf n - 1) ≠ padChar
  | 0, h => absurd h (Nat.lt_irrefl 0)
  | n + 1, h => by
    unfold strippedLen at h ⊢
    split
    next hpad => rw [if_pos hpad] at h; exact read_strippedLen_sub_one_ne buf n h
    next hpad => exact hpad

/-- What is stripped is padding (R121). -/
theorem read_of_strippedLen_le (buf : Memory) :
    ∀ n j, strippedLen buf n ≤ j → j < n → Memory.read buf j = padChar
  | 0, _, _, hj => absurd hj (Nat.not_lt_zero _)
  | n + 1, j, h, hj => by
    unfold strippedLen at h
    split at h
    next hpad =>
      rcases Nat.lt_succ_iff_lt_or_eq.1 hj with hlt | rfl
      · exact read_of_strippedLen_le buf n j h hlt
      · exact hpad
    next => omega

/-- Settles O18: by induction on the length, as the loop strips it; `NORM` is evaluated. -/
theorem paddingStripRemovesExactlyTheSuffix : Obligations.PaddingStripRemovesExactlyTheSuffix :=
  ⟨fun buf n => ⟨strippedLen_le buf n, read_of_strippedLen_le buf n,
    read_strippedLen_sub_one_ne buf n⟩, by decide +kernel⟩

/-! ### What the decoder holds -/

/-- `HasTaken d cs`: the registers of a decoder that was cleared and has since taken the characters
`cs` (R48, R118). No bit is lost: the symbols, read as one number, are the key bytes and the
residual bits (R115). -/
structure HasTaken (d : Decoder) (cs : List Byte) : Prop where
  nchars_eq : d.nchars.toNat = cs.length
  bits_eq : d.bits.toNat = 5 * cs.length % 8
  keyLen_eq : d.keyLen.toNat = 5 * cs.length / 8
  acc_lt : d.acc.toNat < 2 ^ d.bits.toNat
  key_wf : Memory.wf d.keyBuf = true
  key_zero : ∀ i, d.keyLen.toNat ≤ i → Memory.read d.keyBuf i = 0
  value_eq : beValue 32 (cs.map symbolOf) =
    beValue 256 ((Memory.bytes d.keyBuf d.keyLen.toNat).map BitVec.toNat) * 2 ^ d.bits.toNat +
      d.acc.toNat

theorem hasTaken_cleared : HasTaken Decoder.cleared [] where
  nchars_eq := rfl
  bits_eq := rfl
  keyLen_eq := rfl
  acc_lt := by decide
  key_wf := rfl
  key_zero _ _ := rfl
  value_eq := rfl

/-- A symbol that emits a byte appends it to the key. -/
theorem pushSymbol_bytes_emit {d : Decoder} (v : BitVec 5) (h : 8 ≤ d.bits.toNat + 5)
    (hk : d.keyLen.toNat + 1 < 2 ^ 16) :
    Memory.bytes (pushSymbol d v).keyBuf (pushSymbol d v).keyLen.toNat =
      Memory.bytes d.keyBuf d.keyLen.toNat ++
        [Memory.read (pushSymbol d v).keyBuf d.keyLen.toNat] := by
  rw [pushSymbol_keyLen_emit_toNat v h hk, Memory.bytes_succ]
  congr 1
  refine List.map_congr_left fun i hi => pushSymbol_read_ne d v ?_
  exact (List.mem_range.1 hi).ne

/-- The value of the symbols after one more: `byte * 2^bits' + acc'` is `acc * 32 + v`, so the new
byte is the key's next digit in base 256. -/
theorem pushSymbol_value {d : Decoder} (v : BitVec 5) (hw : Memory.wf d.keyBuf = true)
    (ha : d.acc.toNat < 2 ^ d.bits.toNat) (hk : d.keyLen.toNat + 1 < 2 ^ 16) :
    beValue 256 ((Memory.bytes (pushSymbol d v).keyBuf (pushSymbol d v).keyLen.toNat).map
        BitVec.toNat) * 2 ^ (pushSymbol d v).bits.toNat + (pushSymbol d v).acc.toNat =
      (beValue 256 ((Memory.bytes d.keyBuf d.keyLen.toNat).map BitVec.toNat) * 2 ^ d.bits.toNat +
        d.acc.toNat) * 32 + v.toNat := by
  by_cases h : d.bits.toNat + 5 < 8
  case pos =>
    rw [pushSymbol_keyLen_hold v h, pushSymbol_keyBuf_hold v h, pushSymbol_acc_hold v ha h,
      pushSymbol_bits_toNat, Nat.mod_eq_of_lt h, pow_add]
    ring
  case neg =>
    have h' : 8 ≤ d.bits.toNat + 5 := by omega
    have hemit := pushSymbol_emit_value v hw ha h'
    have hbits : (pushSymbol d v).bits.toNat = d.bits.toNat + 5 - 8 := by
      rw [pushSymbol_bits_toNat]; omega
    rw [pushSymbol_bytes_emit v h' hk, List.map_append, List.map_singleton, beValue_concat,
      Nat.add_mul, Nat.add_assoc, hemit, Nat.mul_assoc, hbits, ← two_pow_mul_32 h']
    ring

/-- One more character taken. The registers of 16 bits do not wrap: a token has at most 65535
characters. -/
theorem HasTaken.takeChar {d : Decoder} {cs : List Byte} (hd : HasTaken d cs) (c : Byte)
    (hn : cs.length + 1 < 2 ^ 16) : HasTaken (takeChar d c) (cs ++ [c]) := by
  obtain ⟨hnchars, hbits, hlen, hacc, hw, hzero, hvalue⟩ := hd
  have hk : d.keyLen.toNat + 1 < 2 ^ 16 := by omega
  have hbits' : (Machine.takeChar d c).bits.toNat = _ := pushSymbol_bits_toNat d _
  have hlen' : (Machine.takeChar d c).keyLen.toNat = 5 * (cs.length + 1) / 8 := by
    by_cases h : d.bits.toNat + 5 < 8
    · rw [Machine.takeChar, pushSymbol_keyLen_hold _ h]; omega
    · rw [Machine.takeChar, pushSymbol_keyLen_emit_toNat _ (by omega) hk]; omega
  refine ⟨?nchars, ?bits, ?keyLen, pushSymbol_acc_lt _ hacc, pushSymbol_wf _ hw, fun i hi => ?zero,
    ?value⟩
  case nchars =>
    rw [Machine.takeChar, pushSymbol_nchars_toNat _ (by omega), hnchars, List.length_append,
      List.length_singleton]
  case bits =>
    rw [hbits', List.length_append, List.length_singleton]
    omega
  case keyLen => rw [hlen', List.length_append, List.length_singleton]
  case zero =>
    by_cases h : d.bits.toNat + 5 < 8
    · rw [Machine.takeChar, pushSymbol_keyBuf_hold _ h]
      exact hzero i (by omega)
    · rw [Machine.takeChar, pushSymbol_read_ne _ _ (by omega)]
      exact hzero i (by omega)
  case value =>
    rw [List.map_append, List.map_singleton, beValue_concat, hvalue]
    exact (pushSymbol_value _ hw hacc hk).symm

/-- A cleared decoder holds what it has taken. -/
theorem hasTaken_foldl {cs : List Byte} (hn : cs.length < 2 ^ 16) :
    HasTaken (cs.foldl takeChar Decoder.cleared) cs := by
  induction cs using List.reverseRecOn with
  | nil => exact hasTaken_cleared
  | append_singleton cs c ih =>
    rw [List.length_append, List.length_singleton] at hn
    rw [List.foldl_append]
    exact (ih (by omega)).takeChar c hn

/-- What a decoder holds meets R48. -/
theorem HasTaken.decoderInv {s : State} {cs : List Byte} (hd : HasTaken s.dec cs)
    (hn : cs.length ≤ s.inMax) : DecoderInv s := by
  obtain ⟨hnchars, hbits, hlen, hacc, -, hzero, -⟩ := hd
  exact ⟨hnchars ▸ hn, hnchars ▸ hbits, hnchars ▸ hlen, hacc, hzero⟩

/-! ### The loop of `DEC_STRING` -/

/-- A token is valid, or has a first invalid character. -/
theorem allValid_or_first_invalid (cs : List Byte) :
    AllValid cs ∨
      ∃ pre c post, cs = pre ++ c :: post ∧ AllValid pre ∧ b32val (norm c) = none := by
  induction cs with
  | nil => exact .inl (List.forall_mem_nil _)
  | cons c cs ih =>
    by_cases hc : (b32val (norm c)).isSome = true
    case pos =>
      rcases ih with h | ⟨pre, x, post, rfl, hpre, hx⟩
      · exact .inl (List.forall_mem_cons.2 ⟨hc, h⟩)
      · exact .inr ⟨c :: pre, x, post, rfl, List.forall_mem_cons.2 ⟨hc, hpre⟩, hx⟩
    case neg => exact .inr ⟨[], c, cs, rfl, List.forall_mem_nil _, by simpa using hc⟩

theorem decodeChars_valid {cs : List Byte} (h : AllValid cs) :
    ∀ (pos : Nat) (d : Decoder), decodeChars pos cs d = .ok (cs.foldl takeChar d) := by
  induction cs with
  | nil => exact decodeChars_nil
  | cons c cs ih =>
    intro pos d
    obtain ⟨hc, hcs⟩ := List.forall_mem_cons.1 h
    obtain ⟨v, hv⟩ := Option.isSome_iff_exists.1 hc
    rw [decodeChars_cons_some hv, ih hcs, List.foldl_cons, takeChar, hv, Option.getD_some]

/-- The loop stops at the first invalid character (R206). -/
theorem decodeChars_first_invalid {pre : List Byte} {c : Byte} (hpre : AllValid pre)
    (hc : b32val (norm c) = none) (post : List Byte) (d : Decoder) :
    decodeChars 0 (pre ++ c :: post) d =
      .error (.invalidCharacter c (BitVec.ofNat 16 pre.length)) := by
  rw [decodeChars_append (decodeChars_valid hpre 0 d), decodeChars_cons_none hc,
    norm_of_b32val_none c hc, Nat.zero_add]

theorem execDecString_tooLong {s : State} (h : s.inMax < s.inLen.toNat) :
    exec .decString s = .next (raise .lengthError s) := by
  simp only [exec, execDecString, stageDecode, if_pos h]

theorem execDecString_valid {s : State} (h : s.inLen.toNat ≤ s.inMax) (hcs : AllValid (token s)) :
    exec .decString s =
      .next (succeed { s with dec := (token s).foldl takeChar Decoder.cleared }) := by
  simp only [exec, execDecString, stageDecode, if_neg h.not_gt, decodeChars_valid hcs]

theorem execDecString_invalid {s : State} {pre post : List Byte} {c : Byte}
    (h : s.inLen.toNat ≤ s.inMax) (hs : token s = pre ++ c :: post) (hpre : AllValid pre)
    (hc : b32val (norm c) = none) :
    exec .decString s =
      .next (raise (.invalidCharacter c (BitVec.ofNat 16 pre.length)) s) := by
  simp only [exec, execDecString, stageDecode, if_neg h.not_gt, hs,
    decodeChars_first_invalid hpre hc]

/-- A token is no longer than `IN_LEN`, whose register has 16 bits. -/
theorem token_length_le (s : State) : (token s).length ≤ s.inLen.toNat := by
  rw [token_length]
  exact strippedLen_le _ _

theorem token_length_lt (s : State) : (token s).length < 2 ^ 16 :=
  (token_length_le s).trans_lt s.inLen.isLt

/-- Settles O19: the staged decoder has taken the token. -/
theorem decStringResult : Obligations.DecStringResult := by
  intro s hlen hvalid
  obtain ⟨hnchars, hbits, hkeyLen, hacc, -, hzero, hvalue⟩ := hasTaken_foldl (token_length_lt s)
  exact ⟨_, execDecString_valid hlen hvalid, rfl, hnchars, hbits, hkeyLen, hacc, hvalue, hzero⟩

/-- Settles O20: the position given is where the token's first invalid character stands. -/
theorem decStringErrors : Obligations.DecStringErrors := by
  refine fun s => ⟨execDecString_tooLong, fun hlen i hi hbefore hinvalid => ?_⟩
  have hi' : i < (token s).length := by rwa [token_length]
  have hread (j : Nat) (hj : j < (token s).length) : (token s)[j] = Memory.read s.inBuf j :=
    Memory.bytes_getElem ..
  have hsplit : token s =
      (token s).take i ++ Memory.read s.inBuf i :: (token s).drop (i + 1) := by
    rw [← hread i hi', ← List.drop_eq_getElem_cons hi', List.take_append_drop]
  have hpre : AllValid ((token s).take i) := by
    intro c hc
    obtain ⟨j, hj, rfl⟩ := List.mem_take_iff_getElem.1 hc
    rw [hread]
    exact hbefore j (by omega)
  rw [execDecString_invalid hlen hsplit hpre hinvalid, List.length_take_of_le hi'.le]
  rfl

/-! ### `DEC_CLEAR` and pushes -/

/-- Pushes of valid characters that fit take them one by one. -/
theorem pushAll_valid {cs : List Byte} :
    ∀ {s : State} {taken : List Byte}, AllValid cs → HasTaken s.dec taken → s.errCode = .ok →
      taken.length + cs.length ≤ s.inMax → taken.length + cs.length < 2 ^ 16 →
        pushAll cs s = .next { s with dec := cs.foldl takeChar s.dec } := by
  induction cs with
  | nil => intros; rfl
  | cons c cs ih =>
    intro s taken hvalid hd hok hfits hlen
    obtain ⟨hc, hcs⟩ := List.forall_mem_cons.1 hvalid
    rw [List.length_cons] at hfits hlen
    have hne : s.dec.nchars.toNat ≠ s.inMax := by rw [hd.nchars_eq]; omega
    have hpush := execDecPush_valid (hd.decoderInv (by omega)) hne hc
    have hd' := hd.takeChar c (by omega)
    have hlength : (taken ++ [c]).length = taken.length + 1 := List.length_append
    rw [pushAll, hpush]
    dsimp only
    rw [ih hcs hd' rfl (by rw [hlength, succeed_inMax]; dsimp only; omega) (by omega),
      List.foldl_cons, succeed, ← hok]

/-- After `DEC_CLEAR`, the pushes of the token's characters, or of the first of them, take them. -/
theorem pushAll_cleared {s : State} {cs : List Byte} (hlen : s.inLen.toNat ≤ s.inMax)
    (hn : cs.length ≤ (token s).length) (hvalid : AllValid cs) :
    pushAll cs (succeed { s with dec := Decoder.cleared }) =
      .next (succeed { s with dec := cs.foldl takeChar Decoder.cleared }) := by
  have hle := token_length_le s
  have hlt := token_length_lt s
  refine pushAll_valid hvalid hasTaken_cleared rfl ?_ ?_
  · exact (Nat.zero_add _).trans_le (hn.trans (hle.trans hlen))
  · exact (Nat.zero_add _).trans_lt (hn.trans_lt hlt)

/-- The push of the first invalid character raises the error that `DEC_STRING` raises, at the same
position, with the characters before it taken. -/
theorem execDecPush_first_invalid {s : State} {pre : List Byte} {c : Byte}
    (hd : HasTaken s.dec pre) (hn : pre.length < s.inMax) (hc : b32val (norm c) = none) :
    exec (.decPush c) s = .next (raise (.invalidCharacter c (BitVec.ofNat 16 pre.length)) s) := by
  have hpos : BitVec.ofNat 16 pre.length = s.dec.nchars := by
    rw [← hd.nchars_eq, BitVec.ofNat_toNat, BitVec.setWidth_eq]
  rw [hpos]
  exact execDecPush_invalid (by rw [hd.nchars_eq]; omega) hc

/-- Settles O21: `DEC_STRING` and the pushes both take the token's valid characters from a cleared
decoder, and both stop at the first invalid one. -/
theorem decStringEqualsPushes : Obligations.DecStringEqualsPushes := by
  intro s c t hclear hstring
  cases hclear
  by_cases hlen : s.inLen.toNat ≤ s.inMax
  case neg =>
    rw [execDecString_tooLong (by omega)] at hstring
    cases hstring
    simp [errCodeOf]
  rcases allValid_or_first_invalid (token s) with hvalid | ⟨pre, x, post, hs, hpre, hx⟩
  case inl =>
    rw [execDecString_valid hlen hvalid] at hstring
    cases hstring
    simp [pushAll_cleared hlen le_rfl hvalid]
  case inr =>
    rw [execDecString_invalid hlen hs hpre hx] at hstring
    cases hstring
    have hlt : pre.length < (token s).length := by simp [hs]
    have hle := token_length_le s
    have hd := hasTaken_foldl (hlt.trans (token_length_lt s))
    have hpos : (BitVec.ofNat 16 pre.length).toNat = pre.length := by
      rw [← hd.nchars_eq, BitVec.ofNat_toNat, BitVec.setWidth_eq]
    have htake : (token s).take (BitVec.ofNat 16 pre.length).toNat = pre := by
      rw [hpos, hs]; exact List.take_left
    refine ⟨fun hok => absurd hok (by simp [errCodeOf]), fun _ => rfl, fun _ => ?_⟩
    refine ⟨succeed { s with dec := pre.foldl takeChar Decoder.cleared }, _, ?pushed,
      BitVec.eq_of_toNat_eq (hd.nchars_eq.trans hpos.symm),
      execDecPush_first_invalid hd (by rw [succeed_inMax]; dsimp only; omega) hx, rfl, rfl, rfl⟩
    exact (congrArg (pushAll · _) htake).trans (pushAll_cleared hlen hlt.le hpre)

end Sys2Proof.Machine
end

section
/-! PROOFS. The Base32 round trip (R123): what the standard encoding is made of, and that the
decoder takes it back to the bytes. -/

namespace Sys2Proof.Machine

open Sys2Proof.Claims

/-! ### Digits and their number -/

theorem beValue_append (base : Nat) (xs ys : List Nat) :
    beValue base (xs ++ ys) = beValue base xs * base ^ ys.length + beValue base ys := by
  induction ys using List.reverseRecOn with
  | nil => simp [beValue]
  | append_singleton ys y ih =>
    rw [← List.append_assoc, beValue_concat, beValue_concat, ih, List.length_append,
      List.length_singleton]
    ring

/-- Bytes make a number of as many digits in base 256. -/
theorem beValue_bytes_lt (b : List Byte) : beValue 256 (b.map BitVec.toNat) < 256 ^ b.length := by
  induction b using List.reverseRecOn with
  | nil => decide
  | append_singleton b x ih =>
    have hx := x.isLt
    rw [List.map_append, List.map_singleton, beValue_concat, List.length_append,
      List.length_singleton, pow_succ]
    omega

/-- Bytes are read back from their number and how many they are. -/
theorem bytes_eq_of_beValue_eq {xs : List Byte} :
    ∀ {ys : List Byte}, xs.length = ys.length →
      beValue 256 (xs.map BitVec.toNat) = beValue 256 (ys.map BitVec.toNat) → xs = ys := by
  induction xs using List.reverseRecOn with
  | nil => intro ys hlen _; exact (List.eq_nil_of_length_eq_zero hlen.symm).symm
  | append_singleton xs x ih =>
    intro ys hlen hvalue
    induction ys using List.reverseRecOn with
    | nil => simp at hlen
    | append_singleton ys y _ =>
      rw [List.map_append, List.map_append, List.map_singleton, List.map_singleton,
        beValue_concat, beValue_concat] at hvalue
      have hx := x.isLt
      have hy := y.isLt
      have hxs : xs = ys := ih (by simpa using hlen) (by omega)
      have hxy : x = y := BitVec.eq_of_toNat_eq (by omega)
      rw [hxs, hxy]

/-! ### One group of eight characters -/

/-- The character of a symbol is valid and has the symbol's value (R113). -/
theorem b32val_norm_b32Char : ∀ v, v < 32 →
    (b32val (norm (b32Char v))).isSome = true ∧ symbolOf (b32Char v) = v := by
  decide +kernel

/-- The first `n` characters of a 40-bit group. -/
def groupChars (x n : Nat) : List Byte :=
  (List.range n).map fun k => b32Char (x / 32 ^ (7 - k) % 32)

@[simp] theorem groupChars_length (x n : Nat) : (groupChars x n).length = n := by
  simp [groupChars]

theorem b32Group_eq (x : Nat) {n : Nat} (h : n ≤ 8) :
    b32Group x n = groupChars x n ++ List.replicate (8 - n) padChar := by
  have hrange : List.range 8 = List.range n ++ (List.range (8 - n)).map (n + ·) := by
    rw [← List.range_add, Nat.add_sub_cancel' h]
  rw [b32Group, hrange, List.map_append, List.map_map, groupChars]
  congr 1
  · exact List.map_congr_left fun k hk => if_pos (List.mem_range.1 hk)
  · refine List.eq_replicate_iff.2 ⟨by simp, fun c hc => ?_⟩
    obtain ⟨k, -, rfl⟩ := List.mem_map.1 hc
    exact if_neg (Nat.not_lt.2 (Nat.le_add_right n k))

theorem groupChars_valid (x n : Nat) : AllValid (groupChars x n) := by
  intro c hc
  obtain ⟨k, -, rfl⟩ := List.mem_map.1 hc
  exact (b32val_norm_b32Char _ (Nat.mod_lt _ (by decide))).1

/-- The symbols of a group are its bits from the top. -/
theorem beValue_groupChars {x : Nat} (hx : x < 32 ^ 8) :
    ∀ n, n ≤ 8 → beValue 32 ((groupChars x n).map symbolOf) = x / 32 ^ (8 - n)
  | 0, _ => (Nat.div_eq_of_lt hx).symm
  | n + 1, h => by
    have hchars : groupChars x (n + 1) = groupChars x n ++ [b32Char (x / 32 ^ (7 - n) % 32)] := by
      simp [groupChars, List.range_succ]
    have hpow : 32 ^ (8 - n) = 32 ^ (7 - n) * 32 := by
      rw [← pow_succ]; congr 1; omega
    have hsymbol := (b32val_norm_b32Char (x / 32 ^ (7 - n) % 32) (Nat.mod_lt _ (by decide))).2
    rw [hchars, List.map_append, List.map_singleton, beValue_concat, hsymbol,
      beValue_groupChars hx n (by omega), hpow, ← Nat.div_div_eq_div_mul, Nat.div_add_mod',
      show 8 - (n + 1) = 7 - n by omega]

/-! ### The whole encoding -/

/-- The characters `cs` stand for the bytes `b`: as many symbols as their bits need, the rest of the
last symbol zero. -/
structure Encodes (cs b : List Byte) : Prop where
  valid : AllValid cs
  length_eq : 5 * cs.length / 8 = b.length
  value_eq : beValue 32 (cs.map symbolOf) =
    beValue 256 (b.map BitVec.toNat) * 2 ^ (5 * cs.length % 8)

/-- The 40-bit number of a group: its bytes, filled with zero bytes up to five. -/
def groupNumber (b : List Byte) : Nat :=
  beValue 256 (b.map BitVec.toNat ++ List.replicate (5 - b.length) 0)

theorem beValue_replicate_zero (base n : Nat) : beValue base (List.replicate n 0) = 0 := by
  induction n with
  | zero => rfl
  | succ n ih => rw [List.replicate_succ', beValue_concat, ih, Nat.zero_mul]

theorem groupNumber_eq (b : List Byte) :
    groupNumber b = beValue 256 (b.map BitVec.toNat) * 256 ^ (5 - b.length) := by
  rw [groupNumber, beValue_append, beValue_replicate_zero, List.length_replicate, Nat.add_zero]

theorem groupNumber_lt {b : List Byte} (h : b.length ≤ 5) : groupNumber b < 32 ^ 8 := by
  have hpow : 32 ^ 8 = 256 ^ b.length * 256 ^ (5 - b.length) := by
    rw [← pow_add, Nat.add_sub_cancel' h, pow_32_eq, pow_256_eq]
  rw [groupNumber_eq, hpow]
  exact Nat.mul_lt_mul_of_pos_right (beValue_bytes_lt b) (Nat.pow_pos (by decide))

/-- The first `n` characters of a group stand for its bytes, when `n` is how many the bytes need. -/
theorem encodes_groupChars {b : List Byte} {n : Nat} (hn : n ≤ 8) (hlen : 5 * n / 8 = b.length) :
    Encodes (groupChars (groupNumber b) n) b where
  valid := groupChars_valid _ n
  length_eq := by rwa [groupChars_length]
  value_eq := by
    have hpow : 256 ^ (5 - b.length) = 2 ^ (5 * n % 8) * 32 ^ (8 - n) := by
      rw [pow_32_eq, pow_256_eq, ← pow_add]
      congr 1
      omega
    rw [beValue_groupChars (groupNumber_lt (by omega)) n hn, groupChars_length, groupNumber_eq,
      hpow, ← Nat.mul_assoc, Nat.mul_div_cancel _ (Nat.pow_pos (by decide))]

theorem Encodes.append {cs cs' b b' : List Byte} (h : Encodes cs b) (h' : Encodes cs' b')
    (hwhole : cs.length % 8 = 0) : Encodes (cs ++ cs') (b ++ b') where
  valid := by
    intro c hc
    rcases List.mem_append.1 hc with hc | hc
    · exact h.valid c hc
    · exact h'.valid c hc
  length_eq := by
    rw [List.length_append, List.length_append, ← h.length_eq, ← h'.length_eq]
    omega
  value_eq := by
    have hzero : 5 * cs.length % 8 = 0 := by omega
    have hmod : 5 * (cs ++ cs').length % 8 = 5 * cs'.length % 8 := by
      rw [List.length_append]; omega
    have hpow : 32 ^ cs'.length = 256 ^ b'.length * 2 ^ (5 * cs'.length % 8) := by
      rw [← h'.length_eq, pow_32_eq, pow_256_eq, ← pow_add, Nat.div_add_mod]
    rw [hmod, List.map_append, List.map_append, beValue_append, beValue_append, h.value_eq,
      h'.value_eq, hzero, List.length_map, List.length_map, hpow]
    ring

/-- A group is the characters that its bytes need, then padding. -/
theorem b32Group_eq_append_padding (b : List Byte) (n : Nat) (hn : n ≤ 8)
    (hlen : 5 * n / 8 = b.length) :
    ∃ cs k, b32Group (groupNumber b) n = cs ++ List.replicate k padChar ∧ Encodes cs b :=
  ⟨_, _, b32Group_eq _ hn, encodes_groupChars hn hlen⟩

/-- The standard encoding is characters that stand for the bytes, and padding: a case for each size
of the last group. -/
theorem b32Encode_eq_append_padding (b : List Byte) :
    ∃ cs k, b32Encode b = cs ++ List.replicate k padChar ∧ Encodes cs b := by
  induction b using b32Encode.induct with
  | case1 a b c d e rest ih =>
    obtain ⟨cs, k, hcs, henc⟩ := ih
    have hfirst : b32Encode (a :: b :: c :: d :: e :: rest) =
        b32Group (groupNumber [a, b, c, d, e]) 8 ++ b32Encode rest := rfl
    refine ⟨groupChars (groupNumber [a, b, c, d, e]) 8 ++ cs, k, ?_,
      (encodes_groupChars (by decide) rfl).append henc (by rw [groupChars_length])⟩
    rw [hfirst, b32Group_eq _ (by decide), hcs, List.append_assoc]
    rfl
  | case2 a b c d => exact b32Group_eq_append_padding [a, b, c, d] 7 (by decide) rfl
  | case3 a b c => exact b32Group_eq_append_padding [a, b, c] 5 (by decide) rfl
  | case4 a b => exact b32Group_eq_append_padding [a, b] 4 (by decide) rfl
  | case5 a => exact b32Group_eq_append_padding [a] 2 (by decide) rfl
  | case6 => exact ⟨[], 0, rfl, List.forall_mem_nil _, rfl, rfl⟩

/-! ### Decoding it -/

/-- A decoder that has taken characters that stand for `b` holds the key `b`: the residual bits are
the encoding's zero fill. -/
theorem HasTaken.key_eq {d : Decoder} {cs b : List Byte} (hd : HasTaken d cs) (h : Encodes cs b) :
    Memory.bytes d.keyBuf d.keyLen.toNat = b := by
  have hvalue := hd.value_eq
  rw [h.value_eq, ← hd.bits_eq] at hvalue
  refine bytes_eq_of_beValue_eq ?_ ?_
  · rw [Memory.bytes_length, hd.keyLen_eq, h.length_eq]
  · have hdiv := congrArg (· / 2 ^ d.bits.toNat) hvalue
    simp only [Nat.mul_comm _ (2 ^ d.bits.toNat), Nat.mul_add_div (Nat.two_pow_pos _),
      Nat.mul_div_cancel_left _ (Nat.two_pow_pos d.bits.toNat), Nat.div_eq_of_lt hd.acc_lt] at hdiv
    exact hdiv.symm

theorem ne_padChar_of_valid {c : Byte} (h : (b32val (norm c)).isSome = true) : c ≠ padChar := by
  rintro rfl
  revert h
  decide

theorem Memory.take_bytes (m : Memory) {k n : Nat} (h : k ≤ n) :
    (Memory.bytes m n).take k = Memory.bytes m k := by
  rw [Memory.bytes, ← List.map_take, List.take_range, Nat.min_eq_left h, Memory.bytes]

/-- Of valid characters and padding, exactly the characters are left (R121). -/
theorem token_eq_of_bytes {s : State} {cs : List Byte} {k : Nat} (hcs : AllValid cs)
    (h : Memory.bytes s.inBuf s.inLen.toNat = cs ++ List.replicate k padChar) : token s = cs := by
  have hlen : s.inLen.toNat = cs.length + k := by simpa using congrArg List.length h
  have hget {j : Nat} (hj : j < s.inLen.toNat) :
      (cs ++ List.replicate k padChar)[j]? = some (Memory.read s.inBuf j) := by
    rw [← h, List.getElem?_eq_getElem (by rwa [Memory.bytes_length]), Memory.bytes_getElem]
  have hchar {j : Nat} (hj : j < cs.length) : Memory.read s.inBuf j ≠ padChar := by
    have hmem := hget (j := j) (by omega)
    rw [List.getElem?_append_left hj] at hmem
    exact ne_padChar_of_valid (hcs _ (List.mem_of_getElem? hmem))
  have hpad {j : Nat} (hj : cs.length ≤ j) (hj' : j < s.inLen.toNat) :
      Memory.read s.inBuf j = padChar := by
    have hmem := hget hj'
    rw [List.getElem?_append_right hj] at hmem
    exact List.eq_of_mem_replicate (List.mem_of_getElem? hmem)
  have hstripped : strippedLen s.inBuf s.inLen.toNat = cs.length := by
    have hle := strippedLen_le s.inBuf s.inLen.toNat
    refine le_antisymm (Nat.le_of_not_lt fun hgt => ?_) (Nat.le_of_not_lt fun hlt => ?_)
    · exact read_strippedLen_sub_one_ne s.inBuf s.inLen.toNat (by omega)
        (hpad (by omega) (by omega))
    · exact hchar hlt (read_of_strippedLen_le s.inBuf s.inLen.toNat _ le_rfl (by omega))
  rw [token, hstripped, ← Memory.take_bytes s.inBuf (show cs.length ≤ s.inLen.toNat by omega), h,
    List.take_left]

/-- Settles O22: the token is the encoding without its padding, whose characters stand for the
bytes. -/
theorem base32RoundTrip : Obligations.Base32RoundTrip := by
  intro s b hlen hbytes
  obtain ⟨cs, k, hcs, henc⟩ := b32Encode_eq_append_padding b
  have htoken : token s = cs := token_eq_of_bytes henc.valid (hbytes.trans hcs)
  refine ⟨_, execDecString_valid hlen (htoken ▸ henc.valid), rfl, ?_⟩
  rw [← htoken] at henc
  exact (hasTaken_foldl (token_length_lt s)).key_eq henc

end Sys2Proof.Machine
end

section
/-! PROOFS. The counter commands (R140-R145): the counter is the number of the window of
`1000 * TIME_STEP` milliseconds that the time stands in, it fits `CTR`, and its message is
big-endian. -/

namespace Sys2Proof.Machine

open Sys2Proof.Claims

/-! ### The two commands -/

theorem exec_ctrDerive_invalid {s : State} (hs : s.timeStep.toInt ≤ 0) :
    exec .ctrDerive s = .next (raise .invalidConfiguration s) :=
  if_pos hs

theorem exec_ctrDerive_valid {s : State} (hs : 0 < s.timeStep.toInt) :
    exec .ctrDerive s = .next (succeed (deriveCounter s)) :=
  if_neg (Int.not_le.2 hs)

theorem ctr_of_exec_ctrDerive {s t : State} (hs : 0 < s.timeStep.toInt)
    (h : exec .ctrDerive s = .next t) : t.ctr = BitVec.ofInt 64 (counterOf s) := by
  rw [exec_ctrDerive_valid hs] at h
  cases h
  rfl

/-- One byte of the counter's message (R145). -/
theorem encodeCounter_msg_toNat (s : State) {k : Nat} (hk : k < 8) :
    (encodeCounter s).msg[k].toNat = s.ctr.toNat / 2 ^ (56 - 8 * k) % 256 := by
  simp [encodeCounter, Nat.shiftRight_eq_div_pow]

/-- Settles O27: the message's bytes are the counter's, and together they are the counter. -/
theorem ctrEncodeResult : Obligations.CtrEncodeResult :=
  ⟨decode_encode .ctrEncode, fun s =>
    ⟨succeed (encodeCounter s), rfl, rfl, fun _ hk => encodeCounter_msg_toNat s hk,
      beValue_encodeCounter s⟩⟩

/-! ### The counter as a floor -/

theorem counterOf_eq_ediv {s : State} (hs : 0 < s.timeStep.toInt) :
    counterOf s = timeT s / (1000 * s.timeStep.toInt) :=
  Int.fdiv_eq_ediv_of_nonneg _ (Int.mul_nonneg (by decide) hs.le)

/-- The counter is `c` exactly when the time stands in the window of number `c` (R141, R144). -/
theorem counterOf_eq_iff {s : State} (hs : 0 < s.timeStep.toInt) {c : Int} :
    counterOf s = c ↔
      1000 * s.timeStep.toInt * c ≤ timeT s ∧ timeT s < 1000 * s.timeStep.toInt * (c + 1) := by
  rw [counterOf_eq_ediv hs, Int.ediv_eq_iff_of_pos (by omega), Int.mul_add, Int.mul_one,
    Int.mul_comm c]

/-! ### Ranges (R143) -/

theorem timeMs_range (s : State) : -2 ^ 63 ≤ s.timeMs.toInt ∧ s.timeMs.toInt < 2 ^ 63 :=
  ⟨s.timeMs.le_toInt, s.timeMs.toInt_lt⟩

theorem timeOffset_range (s : State) :
    -2 ^ 31 ≤ s.timeOffset.toInt ∧ s.timeOffset.toInt < 2 ^ 31 :=
  ⟨s.timeOffset.le_toInt, s.timeOffset.toInt_lt⟩

theorem timeT_range (s : State) :
    -2 ^ 63 - 1000 * 2 ^ 31 ≤ timeT s ∧ timeT s < 2 ^ 63 + 1000 * 2 ^ 31 := by
  have hms := timeMs_range s
  have hoff := timeOffset_range s
  unfold timeT
  omega

/-- A window is at least 1000 ms long, so the counter has about ten bits less than the time. -/
theorem counterOf_range {s : State} (hs : 0 < s.timeStep.toInt) :
    -2 ^ 54 < counterOf s ∧ counterOf s < 2 ^ 54 := by
  have hT := timeT_range s
  have hwindow : 0 < 1000 * s.timeStep.toInt := by omega
  rw [counterOf_eq_ediv hs]
  constructor
  · have hle : -2 ^ 54 + 1 ≤ timeT s / (1000 * s.timeStep.toInt) :=
      (Int.le_ediv_iff_mul_le hwindow).2 (by omega)
    omega
  · exact (Int.ediv_lt_iff_lt_mul hwindow).2 (by omega)

/-- `s64(CTR) = c` (R143). -/
theorem ctr_toInt_of_exec_ctrDerive {s t : State} (hs : 0 < s.timeStep.toInt)
    (h : exec .ctrDerive s = .next t) : t.ctr.toInt = counterOf s := by
  have hc := counterOf_range hs
  rw [ctr_of_exec_ctrDerive hs h]
  exact BitVec.toInt_ofInt_eq_self (by decide) (by omega) (by omega)

/-- `CTR = u64(c)` (R141). -/
theorem ctr_toNat_of_exec_ctrDerive {s t : State} (hs : 0 < s.timeStep.toInt)
    (h : exec .ctrDerive s = .next t) : (t.ctr.toNat : Int) = counterOf s % 2 ^ 64 := by
  rw [ctr_of_exec_ctrDerive hs h, BitVec.toNat_ofInt]
  exact Int.toNat_of_nonneg (Int.emod_nonneg _ (by decide))

/-- Settles O24: the registers' widths bound the time, the time bounds the counter, and a counter in
that range is the signed reading of its 64 bits. -/
theorem counterAlwaysFits : Obligations.CounterAlwaysFits := by
  intro s t hs h
  have hms := timeMs_range s
  have hoff := timeOffset_range s
  have hT := timeT_range s
  obtain ⟨hlo, hhi⟩ := counterOf_range hs
  exact ⟨abs_le.2 (by omega), abs_le.2 (by omega), by omega, by omega, hlo, hhi,
    ctr_toInt_of_exec_ctrDerive hs h, ctr_toNat_of_exec_ctrDerive hs h⟩

/-- Settles O23: `CTR` reads as the counter, which is the floor. -/
theorem ctrDeriveResult : Obligations.CtrDeriveResult := by
  refine ⟨decode_encode .ctrDerive, fun s => ⟨exec_ctrDerive_invalid, fun hs => ?_⟩⟩
  refine ⟨succeed (deriveCounter s), exec_ctrDerive_valid hs, rfl, ?_⟩
  exact (counterOf_eq_iff hs).1 (ctr_toInt_of_exec_ctrDerive hs (exec_ctrDerive_valid hs)).symm

/-! ### The source's three formulas (R142) -/

theorem floor_div_thousand (x : ℚ) : ⌊x / 1000⌋ = ⌊x⌋ / 1000 :=
  mod_cast Int.floor_div_natCast x 1000

/-- Settles O25: `⌊x / k⌋ = ⌊x⌋ / k` for an integer `k` turns each formula into divisions of `T` by
1000 and by the step, in one order or the other. -/
theorem counterFormulasAgree : Obligations.CounterFormulasAgree := by
  intro s hs
  have hstep : 0 ≤ s.timeStep.toInt := by omega
  have hthenStep : timeT s / 1000 / s.timeStep.toInt = counterOf s := by
    rw [counterOf_eq_ediv hs, Int.ediv_ediv_of_nonneg (by decide)]
  have hthenThousand : timeT s / s.timeStep.toInt / 1000 = counterOf s := by
    rw [counterOf_eq_ediv hs, Int.ediv_ediv_of_nonneg hstep, Int.mul_comm]
  have hT : (s.timeMs.toInt : ℚ) + 1000 * s.timeOffset.toInt = timeT s := by
    simp [timeT]
  refine ⟨?_, ?_, ?_⟩
  · have hseconds : s.timeMs.toInt / 1000 + s.timeOffset.toInt = timeT s / 1000 :=
      (Int.add_mul_ediv_left _ _ (by decide)).symm
    rw [floor_div_thousand, Int.floor_intCast, ← Int.cast_add, hseconds,
      Int.floor_div_cast_of_nonneg hstep, Int.floor_intCast, hthenStep]
  · rw [hT, floor_div_thousand, Int.floor_div_cast_of_nonneg hstep, Int.floor_intCast,
      hthenThousand]
  · rw [hT, floor_div_thousand, Int.floor_intCast, Int.floor_div_cast_of_nonneg hstep,
      Int.floor_intCast, hthenThousand]

/-! ### The counter's laws (R144) -/

section
variable {s₁ s₂ : State} (hs : 0 < s₁.timeStep.toInt) (hstep : s₁.timeStep = s₂.timeStep)
include hs hstep

theorem counterOf_mono (hT : timeT s₁ ≤ timeT s₂) : counterOf s₁ ≤ counterOf s₂ := by
  rw [counterOf_eq_ediv hs, counterOf_eq_ediv (hstep ▸ hs), ← hstep]
  exact Int.ediv_le_ediv (by omega) hT

/-- A millisecond later the counter is one more exactly if a window starts there. -/
theorem counterOf_next_millisecond (hT : timeT s₂ = timeT s₁ + 1) :
    counterOf s₂ =
      if 1000 * s₁.timeStep.toInt ∣ timeT s₂ then counterOf s₁ + 1 else counterOf s₁ := by
  obtain ⟨hlo, hhi⟩ := (counterOf_eq_iff hs).1 rfl
  rw [counterOf_eq_iff (hstep ▸ hs), ← hstep]
  split
  case isTrue hdvd =>
    obtain ⟨c, hc⟩ := hdvd
    have hcounter : counterOf s₁ = c - 1 :=
      (counterOf_eq_iff hs).2 ⟨by rw [Int.mul_sub]; omega, by rw [Int.sub_add_cancel]; omega⟩
    rw [hcounter, Int.sub_add_cancel, Int.mul_add]
    omega
  case isFalse hdvd =>
    have hne : timeT s₂ ≠ 1000 * s₁.timeStep.toInt * (counterOf s₁ + 1) :=
      fun heq => hdvd ⟨_, heq⟩
    omega

theorem counterOf_next_window (hT : timeT s₂ = timeT s₁ + 1000 * s₁.timeStep.toInt) :
    counterOf s₂ = counterOf s₁ + 1 := by
  rw [counterOf_eq_ediv hs, counterOf_eq_ediv (hstep ▸ hs), ← hstep, hT,
    Int.add_ediv_of_dvd_right dvd_rfl, Int.ediv_self (by omega)]

end

/-- Settles O26: between two states of one configuration `T` moves as `TIME_MS` does, so each law of
the counter in `T` is one in the time. -/
theorem counterLaws : Obligations.CounterLaws := by
  intro s₁ s₂ t₁ t₂ hstep hoff hs h₁ h₂
  have hs₂ : 0 < s₂.timeStep.toInt := hstep ▸ hs
  have hT : timeT s₂ - timeT s₁ = s₂.timeMs.toInt - s₁.timeMs.toInt := by
    rw [timeT, timeT, hoff]
    omega
  rw [ctr_toInt_of_exec_ctrDerive hs h₁, ctr_toInt_of_exec_ctrDerive hs₂ h₂]
  refine ⟨fun hms => counterOf_mono hs hstep (by omega), fun k hlo₁ hhi₁ hlo₂ hhi₂ => ?_,
    fun hms => counterOf_next_millisecond hs hstep (by omega),
    fun hms => counterOf_next_window hs hstep (by omega)⟩
  have hk₁ : counterOf s₁ = k := (counterOf_eq_iff hs).2 ⟨hlo₁, hhi₁⟩
  have hk₂ : counterOf s₂ = k := (counterOf_eq_iff hs₂).2 (hstep ▸ ⟨hlo₂, hhi₂⟩)
  rw [ctr_of_exec_ctrDerive hs h₁, ctr_of_exec_ctrDerive hs₂ h₂, hk₁, hk₂]

end Sys2Proof.Machine
end

section
/-! PROOFS. The HMAC request and what is made of its digest (R160-R173): the window of the digest,
its remainder, and the six digits of the code. -/

namespace Sys2Proof.Machine

open Sys2Proof.Claims

/-! ### `TRUNCATE` -/

theorem offsetOf_toNat (d : Digest) : (offsetOf d).toNat = d[19].toNat % 16 := by
  rw [offsetOf, BitVec.toNat_setWidth]

/-- The window lies before the byte that gives its offset (R170). -/
theorem offset_add_three_le (o : BitVec 4) : o.toNat + 3 ≤ 18 := by
  omega

/-- The window's four bytes, big-endian (R169). -/
theorem windowAt_toNat (d : Digest) (o : BitVec 4) (h : o.toNat + 3 ≤ 18) :
    (windowAt d o).toNat = beValue 256
      [d[o.toNat].toNat, d[o.toNat + 1].toNat, d[o.toNat + 2].toNat, d[o.toNat + 3].toNat] := by
  rw [windowAt, toNat_append_eq_add, toNat_append_eq_add, toNat_append_eq_add]
  simp [beValue]

theorem truncateDigest_trunc_toNat (s : State) (h : (offsetOf s.digest).toNat + 3 ≤ 18) :
    (truncateDigest s).trunc.toNat = beValue 256
      [s.digest[(offsetOf s.digest).toNat].toNat, s.digest[(offsetOf s.digest).toNat + 1].toNat,
        s.digest[(offsetOf s.digest).toNat + 2].toNat,
        s.digest[(offsetOf s.digest).toNat + 3].toNat] % 2 ^ 31 := by
  rw [truncateDigest_trunc, BitVec.toNat_setWidth, windowAt_toNat _ _ h]

/-- Settles O31: the offset is below sixteen, and the window's bytes make its number. -/
theorem truncateResult : Obligations.TruncateResult :=
  ⟨decode_encode .truncate, fun s =>
    ⟨succeed (truncateDigest s), rfl, rfl, offsetOf_toNat s.digest, offset_add_three_le _,
      truncateDigest_trunc_toNat s (offset_add_three_le _)⟩⟩

/-! ### `MOD1M` -/

theorem reduceTrunc_codeBin_toNat (s : State) :
    (reduceTrunc s).codeBin.toNat = s.trunc.toNat % 1000000 := by
  rw [reduceTrunc_codeBin, BitVec.toNat_ofNat]
  omega

/-- Settles O32: the remainder fits `CODE_BIN`. -/
theorem mod1mResult : Obligations.Mod1mResult :=
  ⟨decode_encode .mod1m, fun s =>
    ⟨succeed (reduceTrunc s), rfl, rfl, reduceTrunc_codeBin_toNat s, reduceTrunc_codeBin_le s⟩⟩

/-! ### `FORMAT` -/

theorem asciiDigit_toNat (n k : Nat) : (asciiDigit n k).toNat = 0x30 + n / 10 ^ (5 - k) % 10 := by
  rw [asciiDigit, BitVec.toNat_ofNat]
  omega

/-- One character of the code (R172). -/
theorem formatCode_codeAscii_toNat (s : State) {k : Nat} (hk : k < 6) :
    (formatCode s).codeAscii[k].toNat = 0x30 + s.codeBin.toNat / 10 ^ (5 - k) % 10 := by
  rw [formatCode_codeAscii, Vector.getElem_ofFn, asciiDigit_toNat]

/-- Every character of the code is a decimal digit (R173). -/
theorem formatCode_codeAscii_range (s : State) {k : Nat} (hk : k < 6) :
    0x30 ≤ (formatCode s).codeAscii[k].toNat ∧ (formatCode s).codeAscii[k].toNat ≤ 0x39 := by
  rw [formatCode_codeAscii_toNat s hk]
  omega

/-- The `m` lowest digits, the most significant first, make the number modulo `base ^ m`. -/
theorem beValue_digits (base m : Nat) : ∀ n,
    beValue base (List.ofFn fun k : Fin m => n / base ^ (m - 1 - k.val) % base) = n % base ^ m := by
  induction m with
  | zero => exact fun n => (Nat.mod_one n).symm
  | succ m ih =>
    intro n
    have hupper : ∀ k : Fin m, n / base ^ (m - k.val) = n / base / base ^ (m - 1 - k.val) := by
      intro k
      rw [Nat.div_div_eq_div_mul, ← pow_succ', show m - 1 - k.val + 1 = m - k.val by omega]
    have hlist : (List.ofFn fun k : Fin (m + 1) => n / base ^ (m - k.val) % base) =
        (List.ofFn fun k : Fin m => n / base / base ^ (m - 1 - k.val) % base) ++ [n % base] := by
      rw [List.ofFn_succ', List.concat_eq_append]
      simp [hupper]
    rw [Nat.add_sub_cancel, hlist, beValue_concat, ih, pow_succ', Nat.mod_mul, Nat.add_comm,
      Nat.mul_comm]

/-- The six characters, read in base 10, are a code of at most six digits (R173). -/
theorem beValue_formatCode {s : State} (h : s.codeBin.toNat ≤ 999999) :
    beValue 10 ((formatCode s).codeAscii.toList.map fun b => b.toNat - 0x30) = s.codeBin.toNat := by
  have hdigits : ((formatCode s).codeAscii.toList.map fun b => b.toNat - 0x30) =
      List.ofFn fun k : Fin 6 => s.codeBin.toNat / 10 ^ (5 - k.val) % 10 := by
    simp [Vector.toList_ofFn, asciiDigit_toNat]
  rw [hdigits]
  exact (beValue_digits 10 6 _).trans (Nat.mod_eq_of_lt (by omega))

/-- Settles O33: the characters are digits, and they are those of the code. -/
theorem formatResult : Obligations.FormatResult :=
  ⟨decode_encode .format, fun s =>
    ⟨succeed (formatCode s), rfl, rfl,
      fun _ hk => ⟨formatCode_codeAscii_toNat s hk, formatCode_codeAscii_range s hk⟩,
      beValue_formatCode⟩⟩

/-! ### The request and its response -/

theorem engineResponse_hmac {s : State} (hp : s.pend = .hmac) (d : Digest) :
    engineResponse d s = .next (respondHmac d s) := by
  simp [engineResponse, hp]

/-- The engine's own response is `HMAC_FN` of the key and the message as they stand (R161, R166). -/
theorem engineRespond_hmac {s : State} (hp : s.pend = .hmac) :
    engineRespond s = .next (respondHmac (Config.hmacFn (hmacKey s) s.msg) s) :=
  engineResponse_hmac hp _

/-- Settles O29: the command leaves a request, to which the response is the engine's own. -/
theorem hmacStartResult : Obligations.HmacStartResult :=
  ⟨decode_encode .hmacStart, fun _ => ⟨rfl, engineRespond_hmac rfl⟩⟩

/-- Settles O30: a response writes `DIGEST` and `PEND`, and a step that takes it does no more. -/
theorem engineRespondToHmac : Obligations.EngineRespondToHmac := by
  intro s hp
  refine ⟨engineResponse_hmac hp, engineRespond_hmac hp, fun rest h => ?step⟩
  case step => exact (step_engineRespond h).trans (engineRespond_hmac hp)

end Sys2Proof.Machine
end

section
/-! PROOFS. `GENERATE` (R190-R195): its first phase as what `CTR_DERIVE`, `CTR_ENCODE` and
`DEC_STRING` do, its second as what follows a response, and that both depend on the token, the time
and the configuration only. -/

namespace Sys2Proof.Machine

open Sys2Proof.Claims

/-! ### The staged decode reads the token only -/

theorem strippedLen_congr {m m' : Memory} :
    ∀ n, (∀ i, i < n → Memory.read m i = Memory.read m' i) → strippedLen m n = strippedLen m' n
  | 0, _ => rfl
  | n + 1, h => by
    rw [strippedLen, strippedLen, h n n.lt_succ_self,
      strippedLen_congr n fun i hi => h i (Nat.lt_succ_of_lt hi)]

theorem token_congr {s s' : State} (hlen : s.inLen = s'.inLen)
    (hbuf : ∀ i, i < s.inLen.toNat → Memory.read s.inBuf i = Memory.read s'.inBuf i) :
    token s = token s' := by
  rw [token, token, ← hlen, ← strippedLen_congr _ hbuf]
  refine List.map_congr_left fun i hi => hbuf i ?_
  exact (List.mem_range.1 hi).trans_le (strippedLen_le _ _)

theorem stageDecode_congr {s s' : State} (hmax : s.inMax = s'.inMax) (hlen : s.inLen = s'.inLen)
    (hbuf : ∀ i, i < s.inLen.toNat → Memory.read s.inBuf i = Memory.read s'.inBuf i) :
    stageDecode s = stageDecode s' := by
  rw [stageDecode, stageDecode, token_congr hlen hbuf, hmax, hlen]

theorem exec_decString_staged {s : State} {d : Decoder} (hd : stageDecode s = .ok d) :
    exec .decString s = .next (succeed { s with dec := d }) := by
  simp only [exec, execDecString, hd]

theorem exec_decString_raised {s : State} {e : CmdError} (he : stageDecode s = .error e) :
    exec .decString s = .next (raise e s) := by
  simp only [exec, execDecString, he]

/-! ### The first phase -/

/-- What the first phase leaves when no check fails, with the staged decode `d` (R190). -/
def requestCode (d : Decoder) (s : State) : State :=
  succeed { encodeCounter (deriveCounter s) with dec := d, pend := .gen }

theorem exec_generate_invalidConfiguration {s : State} (hs : s.timeStep.toInt ≤ 0) :
    exec .generate s = .next (raise .invalidConfiguration s) :=
  if_pos hs

theorem exec_generate_staged {s : State} {d : Decoder} (hs : 0 < s.timeStep.toInt)
    (hd : stageDecode s = .ok d) : exec .generate s = .next (requestCode d s) := by
  rw [exec, execGenerate, timeStepSeconds, if_neg (Int.not_le.2 hs), hd, requestCode]

theorem exec_generate_raised {s : State} {e : CmdError} (hs : 0 < s.timeStep.toInt)
    (he : stageDecode s = .error e) : exec .generate s = .next (raise e s) := by
  rw [exec, execGenerate, timeStepSeconds, if_neg (Int.not_le.2 hs), he]

/-- What `GENERATE` answers: one of these three. -/
theorem exec_generate_cases (s : State) :
    (s.timeStep.toInt ≤ 0 ∧ exec .generate s = .next (raise .invalidConfiguration s)) ∨
    (0 < s.timeStep.toInt ∧ ∃ e, stageDecode s = .error e ∧
      exec .generate s = .next (raise e s)) ∨
    (0 < s.timeStep.toInt ∧ ∃ d, stageDecode s = .ok d ∧
      exec .generate s = .next (requestCode d s)) := by
  rcases le_or_gt s.timeStep.toInt 0 with hs | hs
  · exact .inl ⟨hs, exec_generate_invalidConfiguration hs⟩
  · cases hd : stageDecode s with
    | error e => exact .inr (.inl ⟨hs, e, rfl, exec_generate_raised hs hd⟩)
    | ok d => exact .inr (.inr ⟨hs, d, rfl, exec_generate_staged hs hd⟩)

/-- A `GENERATE` that completes has passed every check. -/
theorem exec_generate_ok {s g : State} (h : exec .generate s = .next g) (hok : g.errCode = .ok) :
    0 < s.timeStep.toInt ∧ ∃ d, stageDecode s = .ok d ∧ g = requestCode d s := by
  rcases exec_generate_cases s with ⟨-, hg⟩ | ⟨-, e, -, hg⟩ | ⟨hs, d, hd, hg⟩ <;>
    rw [hg] at h <;> cases h
  · cases hok
  · exact absurd ((raise_errCode e s).symm.trans hok) (errCodeOf_ne_ok e)
  · exact ⟨hs, d, hd, rfl⟩

/-- With a positive step, `GENERATE` fails as `DEC_STRING` does (R191). -/
theorem exec_generate_of_decString_error {s t : State} (hs : 0 < s.timeStep.toInt)
    (h : exec .decString s = .next t) (herr : t.errCode ≠ .ok) : exec .generate s = .next t := by
  cases hd : stageDecode s with
  | error e => rw [exec_generate_raised hs hd, ← exec_decString_raised hd, h]
  | ok d =>
    rw [exec_decString_staged hd] at h
    cases h
    exact absurd rfl herr

/-- The counter a request is made for is the floor (R141). -/
theorem requestCode_ctr_toInt {s : State} (hs : 0 < s.timeStep.toInt) (d : Decoder) :
    (requestCode d s).ctr.toInt = counterOf s :=
  (ctr_toInt_of_exec_ctrDerive hs (exec_ctrDerive_valid hs) :)

/-- Settles O34: the counter is `CTR_DERIVE`'s, the message `CTR_ENCODE`'s, the decoder
`DEC_STRING`'s. -/
theorem generateFirstPhase : Obligations.GenerateFirstPhase := by
  intro s hs hlen hvalid
  have hd : stageDecode s = .ok ((token s).foldl takeChar Decoder.cleared) := by
    rw [stageDecode, if_neg hlen.not_gt, decodeChars_valid hvalid]
  obtain ⟨hlo, hhi⟩ := (counterOf_eq_iff hs).1 (requestCode_ctr_toInt hs _).symm
  exact ⟨_, _, exec_generate_staged hs hd, exec_decString_staged hd, rfl, hlo, hhi,
    beValue_encodeCounter (deriveCounter s), (hasTaken_foldl (token_length_lt s)).keyLen_eq⟩

/-- Settles O35: the step is checked first, and then `GENERATE` fails as `DEC_STRING` does. -/
theorem generateErrorPriority : Obligations.GenerateErrorPriority := by
  intro s
  obtain ⟨htooLong, hinvalid⟩ := decStringErrors s
  refine ⟨exec_generate_invalidConfiguration, fun hs hlen => ?length,
    fun hs hlen i hi hbefore hnone => ?character⟩
  case length => exact exec_generate_of_decString_error hs (htooLong hlen) ErrCode.noConfusion
  case character =>
    exact exec_generate_of_decString_error hs (hinvalid hlen i hi hbefore hnone)
      ErrCode.noConfusion

/-! ### The second phase -/

theorem engineResponse_gen {s : State} (hp : s.pend = .gen) (d : Digest) :
    engineResponse d s = .next (respondGen d s) := by
  simp [engineResponse, hp]

/-- Settles O36: the response is `TRUNCATE`, `MOD1M` and `FORMAT` on the digest received. -/
theorem generateSecondPhase : Obligations.GenerateSecondPhase := by
  refine ⟨fun d s hp => ?response, fun s hp => ⟨rfl, fun rest h => step_engineRespond h⟩⟩
  exact ⟨respondGen d s, engineResponse_gen hp d, rfl, offsetOf_toNat d,
    ⟨offset_add_three_le _,
      truncateDigest_trunc_toNat { s with digest := d } (offset_add_three_le _)⟩,
    reduceTrunc_codeBin_toNat _, beValue_formatCode (reduceTrunc_codeBin_le _),
    fun _ hk => formatCode_codeAscii_range _ hk⟩

/-! ### The staged commands -/

/-- Raised in two states that agree in `ERR_CHAR` and `ERR_POS`, an error leaves the same error
fields (R203). -/
theorem raise_eq_of_errorFields (e : CmdError) {s t : State} (hchar : t.errChar = s.errChar)
    (hpos : t.errPos = s.errPos) :
    raise e t =
      { t with
        errCode := (raise e s).errCode, errChar := (raise e s).errChar
        errPos := (raise e s).errPos } := by
  cases e <;> simp [raise, ← hchar, ← hpos]

/-- The counter commands leave the token as it was. -/
theorem stageDecode_after_counter (s : State) :
    stageDecode (succeed (encodeCounter (succeed (deriveCounter s)))) = stageDecode s :=
  stageDecode_congr rfl rfl fun _ _ => rfl

/-- The response to `HMAC_START` and the three commands after it do what the response to `GENERATE`
does (R192). -/
theorem staged_respondHmac (d : Digest) (s : State) :
    succeed (formatCode (succeed (reduceTrunc (succeed (truncateDigest
      (respondHmac d { s with pend := .hmac })))))) = succeed (respondGen d s) :=
  rfl

/-- Settles O37: `DEC_STRING` stages the same decode after the two counter commands as before
them. -/
theorem generateEqualsStagedCommands : Obligations.GenerateEqualsStagedCommands := by
  intro s g hg
  have hstage := stageDecode_after_counter s
  refine ⟨fun hok d => ?success, fun herr => ?failure⟩
  case success =>
    obtain ⟨hs, k, hk, rfl⟩ := exec_generate_ok hg hok
    have hend := (engineResponse_gen rfl d).trans
      (congrArg _ (staged_respondHmac d (requestCode k s)).symm)
    exact ⟨_, _, _, { requestCode k s with pend := .hmac }, _, _, _, _, exec_ctrDerive_valid hs,
      rfl, exec_decString_staged (hstage.trans hk), rfl, rfl, rfl, engineResponse_hmac rfl d, rfl,
      rfl, rfl, hend, rfl⟩
  case failure =>
    rcases exec_generate_cases s with ⟨hs, hr⟩ | ⟨hs, e, he, hr⟩ | ⟨hs, k, hk, hr⟩ <;>
      rw [hr] at hg <;> cases hg
    · exact ⟨rfl, fun hs' => absurd hs' hs.not_gt⟩
    · exact ⟨raise_eq_of_errorFields e rfl rfl, fun _ => ⟨_, _, _, exec_ctrDerive_valid hs, rfl,
        exec_decString_raised (hstage.trans he), raise_eq_of_errorFields e rfl rfl⟩⟩
    · exact absurd rfl herr

/-! ### What the code depends on -/

/-- The same decode and the same counter give the same request, and the engine's responses to it the
same digest and code, whatever else the states hold (R194). -/
theorem requestCode_congr {s₁ s₂ : State} (d : Decoder) (hc : counterOf s₁ = counterOf s₂) :
    (requestCode d s₁).ctr = (requestCode d s₂).ctr ∧
    (requestCode d s₁).msg = (requestCode d s₂).msg ∧
    ∃ t₁ t₂ : State, engineRespond (requestCode d s₁) = .next t₁ ∧
      engineRespond (requestCode d s₂) = .next t₂ ∧
      t₁.digest = t₂.digest ∧ t₁.codeAscii = t₂.codeAscii := by
  have hctr : (requestCode d s₁).ctr = (requestCode d s₂).ctr := congrArg (BitVec.ofInt 64) hc
  have hmsg : (requestCode d s₁).msg = (requestCode d s₂).msg := by
    simp [requestCode, hc]
  have hresponse : Config.hmacFn (hmacKey (requestCode d s₁)) (requestCode d s₁).msg =
      Config.hmacFn (hmacKey (requestCode d s₂)) (requestCode d s₂).msg := by
    rw [hmsg]; rfl
  refine ⟨hctr, hmsg, _, _, engineResponse_gen rfl _, engineResponse_gen rfl _, hresponse, ?_⟩
  rw [hresponse]
  rfl

/-- Two runs with the same token and configuration stage the same decode. -/
theorem exec_generate_same {s₁ s₂ g₁ g₂ : State} (hsame : SameTokenAndConfig s₁ s₂)
    (h₁ : exec .generate s₁ = .next g₁) (h₂ : exec .generate s₂ = .next g₂)
    (hok : g₁.errCode = .ok) :
    0 < s₁.timeStep.toInt ∧ ∃ d, g₁ = requestCode d s₁ ∧ g₂ = requestCode d s₂ := by
  obtain ⟨hmax, hlen, hbuf, hstep, -⟩ := hsame
  obtain ⟨hs, d, hd, rfl⟩ := exec_generate_ok h₁ hok
  rw [stageDecode_congr hmax hlen hbuf] at hd
  rw [exec_generate_staged (hstep ▸ hs) hd] at h₂
  cases h₂
  exact ⟨hs, d, rfl, rfl⟩

/-- Settles O38: the same inputs give the same decode and the same counter. -/
theorem generateIsDeterministic : Obligations.GenerateIsDeterministic := by
  intro s₁ s₂ g₁ g₂ ⟨hmax, hlen, hbuf, hms, hstep, hoff⟩ h₁ h₂ hok
  obtain ⟨-, d, rfl, rfl⟩ := exec_generate_same ⟨hmax, hlen, hbuf, hstep, hoff⟩ h₁ h₂ hok
  have hc : counterOf s₁ = counterOf s₂ := by
    simp only [counterOf, timeMillis, timeOffsetSeconds, timeStepSeconds, hms, hstep, hoff]
  obtain ⟨hctr, hmsg, hresponses⟩ := requestCode_congr d hc
  exact ⟨rfl, hctr, hmsg, rfl, hresponses⟩

/-- Settles O39: a window has one counter, and the next window the next one. -/
theorem generateIsStableInItsWindow : Obligations.GenerateIsStableInItsWindow := by
  intro s₁ s₂ g₁ g₂ hsame h₁ h₂ hok
  obtain ⟨hs, d, rfl, rfl⟩ := exec_generate_same hsame h₁ h₂ hok
  obtain ⟨-, -, -, hstep, hoff⟩ := hsame
  have hs₂ : 0 < s₂.timeStep.toInt := hstep ▸ hs
  refine ⟨fun k hlo₁ hhi₁ hlo₂ hhi₂ => ?sameWindow, fun hms => ?nextWindow⟩
  case sameWindow =>
    have hk₁ : counterOf s₁ = k := (counterOf_eq_iff hs).2 ⟨hlo₁, hhi₁⟩
    have hk₂ : counterOf s₂ = k := (counterOf_eq_iff hs₂).2 (hstep ▸ ⟨hlo₂, hhi₂⟩)
    obtain ⟨-, -, t₁, t₂, ht₁, ht₂, -, hcode⟩ := requestCode_congr d (hk₁.trans hk₂.symm)
    exact ⟨t₁, t₂, ht₁, ht₂, hcode⟩
  case nextWindow =>
    have hT : timeT s₂ = timeT s₁ + 1000 * s₁.timeStep.toInt := by
      rw [timeT, timeT, hms, hoff]
      omega
    rw [requestCode_ctr_toInt hs, requestCode_ctr_toInt hs₂, counterOf_next_window hs hstep hT]

end Sys2Proof.Machine
end

section
/-! PROOFS. Errors (R200-R212): what raising one leaves, which command raises which, the words that
raise `ILLEGAL_COMMAND`, and the overrun flag of a dropped write. -/

namespace Sys2Proof.Machine

/-! ### Raising an error (R203) -/

/-- Only `INVALID_CHARACTER` records a character and its position. -/
theorem raise_errChar_errPos {e : CmdError} (s : State) (h : errCodeOf e ≠ .invalidCharacter) :
    (raise e s).errChar = s.errChar ∧ (raise e s).errPos = s.errPos := by
  cases e with
  | invalidCharacter char pos => exact absurd rfl h
  | _ => exact ⟨rfl, rfl⟩

/-- Settles O11: a command either raises an error from its start state or completes with `OK`. -/
theorem failedCommandHasNoOtherEffect : Obligations.FailedCommandHasNoOtherEffect := by
  refine ⟨fun char pos s => ⟨rfl, rfl, rfl, rfl⟩, fun i s t h herr => ?failed⟩
  case failed =>
    rcases exec_next_cases h with ⟨e, rfl⟩ | ⟨u, -, rfl⟩
    · rw [raise_errCode]
      exact ⟨⟨e, rfl⟩, raise_eq e s, raise_errChar_errPos s⟩
    · exact absurd (succeed_errCode u) herr

/-! ### Which command raises which error (R210) -/

/-- `MayRaise i e`: R210's table gives the command `i` the error `e`. -/
inductive MayRaise : Instr → ErrCode → Prop where
  | pushLength (c : Byte) : MayRaise (.decPush c) .lengthError
  | pushCharacter (c : Byte) : MayRaise (.decPush c) .invalidCharacter
  | stringLength : MayRaise .decString .lengthError
  | stringCharacter : MayRaise .decString .invalidCharacter
  | deriveConfiguration : MayRaise .ctrDerive .invalidConfiguration
  | generateConfiguration : MayRaise .generate .invalidConfiguration
  | generateLength : MayRaise .generate .lengthError
  | generateCharacter : MayRaise .generate .invalidCharacter

theorem MayRaise.ne_illegalCommand {i : Instr} {e : ErrCode} (h : MayRaise i e) :
    e ≠ .illegalCommand := by
  cases h <;> decide

/-- The staged decode fails on the token's length or on one of its characters (R120). -/
theorem stageDecode_errCode {s : State} {e : CmdError} (h : stageDecode s = .error e) :
    errCodeOf e = .lengthError ∨ errCodeOf e = .invalidCharacter := by
  unfold stageDecode at h
  split at h
  · cases h; exact .inl rfl
  · rcases allValid_or_first_invalid (token s) with hvalid | ⟨pre, c, post, hcs, hpre, hc⟩
    · rw [decodeChars_valid hvalid] at h
      cases h
    · rw [hcs, decodeChars_first_invalid hpre hc] at h
      cases h
      exact .inr rfl

/-- A command ends with `OK` or with an error of its own. -/
theorem exec_errCode {i : Instr} {s t : State} (h : exec i s = .next t) :
    t.errCode = .ok ∨ MayRaise i t.errCode := by
  cases i with
  | decPush c =>
    simp only [exec, execDecPush] at h
    split at h
    · cases h; exact .inr (.pushLength c)
    · split at h
      · cases h; exact .inr (.pushCharacter c)
      · split at h <;> cases h
        exact .inl rfl
  | decString =>
    cases hd : stageDecode s with
    | ok d => rw [exec_decString_staged hd] at h; cases h; exact .inl rfl
    | error e =>
      rw [exec_decString_raised hd] at h
      cases h
      rw [raise_errCode]
      rcases stageDecode_errCode hd with he | he <;> rw [he]
      · exact .inr .stringLength
      · exact .inr .stringCharacter
  | ctrDerive =>
    rcases le_or_gt s.timeStep.toInt 0 with hs | hs
    · rw [exec_ctrDerive_invalid hs] at h; cases h; exact .inr .deriveConfiguration
    · rw [exec_ctrDerive_valid hs] at h; cases h; exact .inl rfl
  | generate =>
    rcases exec_generate_cases s with ⟨-, hg⟩ | ⟨-, e, he, hg⟩ | ⟨-, d, -, hg⟩ <;>
      rw [hg] at h <;> cases h
    · exact .inr .generateConfiguration
    · rw [raise_errCode]
      rcases stageDecode_errCode he with he | he <;> rw [he]
      · exact .inr .generateLength
      · exact .inr .generateCharacter
    · exact .inl rfl
  | decLookup c => rw [exec, execDecLookup_eq] at h; cases h; exact .inl rfl
  | _ => cases h; exact .inl rfl

/-! ### Words that select no row (R95, R205) -/

/-- R95's steps and R94's table reject the same words. -/
theorem decode_illegal_iff (w : Word) :
    (∃ why, decode w = .illegal why) ↔ ∀ r ∈ opcodeTable, w &&& r.mask ≠ r.value := by
  cases hd : decode w with
  | command i =>
    obtain ⟨r, hr, hsel, -⟩ := row_of_decode hd
    simpa using ⟨r, hr, hsel⟩
  | illegal why =>
    refine iff_of_true ⟨why, rfl⟩ fun r hr hsel => ?_
    obtain ⟨i, hi, -⟩ := decode_of_row hr hsel
    cases hd.symm.trans hi

theorem wellFormedWord_eq_false_iff (w : Word) :
    wellFormedWord w = false ↔ ∃ why, decode w = .illegal why := by
  simp [decode_illegal_iff, wellFormedWord, OpcodeRow.selects]

/-- Settles O2: a word that selects no row does not decode, and the step raises the error. -/
theorem illegalWordChangesOnlyErrCode : Obligations.IllegalWordChangesOnlyErrCode := by
  intro s w rest hi hp hrow
  obtain ⟨why, hd⟩ := (decode_illegal_iff w).2 hrow
  rw [step_command hi hp, runCommand_illegal hd]
  rfl

/-- Settles O12: a command's errors are those of R210's table, and `ILLEGAL_COMMAND`, which is none
of them, is what a word that does not decode raises. -/
theorem whichCommandRaisesWhichError : Obligations.WhichCommandRaisesWhichError := by
  refine ⟨fun i s t h => ?command, fun w s t h => ?word⟩
  case command =>
    rcases exec_errCode h with hok | hraise
    · simp [hok]
    · generalize t.errCode = e at hraise
      cases hraise <;> simp
  case word =>
    rw [wellFormedWord_eq_false_iff]
    cases hd : decode w with
    | command i =>
      rw [runCommand_command hd] at h
      have hne : t.errCode ≠ .illegalCommand := by
        rcases exec_errCode h with hok | hraise
        · simp [hok]
        · exact hraise.ne_illegalCommand
      simpa using hne
    | illegal why =>
      rw [runCommand_illegal hd] at h
      cases h
      exact iff_of_true rfl ⟨why, rfl⟩

/-! ### The previous `ERR_CODE` (R200, R208) -/

/-- A command reads other registers only, and each of its ends, `succeed` and `raise`, writes
`ERR_CODE`. -/
theorem exec_withErrCode (i : Instr) (s : State) (e : ErrCode) :
    exec i { s with errCode := e } = exec i s := by
  cases i <;> rfl

/-- Settles O13: the word decodes to one command or is illegal, and neither reads `ERR_CODE`. -/
theorem everyCommandWritesErrCode : Obligations.EveryCommandWritesErrCode := by
  intro w s e
  cases hd : decode w with
  | command i => simp only [runCommand_command hd, exec_withErrCode]
  | illegal why => simp only [runCommand_illegal hd, raise]

/-! ### The overrun flag (R207) -/

theorem commandEffect_overrun {s u : State} {i : Instr} (h : CommandEffect s i u) :
    u.overrun = s.overrun := by
  cases h <;> rfl

@[simp] theorem writeReg_overrun (v : Word) (s : State) (r : Reg) :
    (writeReg v s r).overrun = s.overrun := by
  rw [writeReg_eq]

@[simp] theorem respondGen_overrun (d : Digest) (s : State) :
    (respondGen d s).overrun = s.overrun := rfl

/-- Settles O44: of all that a step can do, only a `STATUS` write, a dropped write and a reset write
`OVERRUN`, and a dropped write nothing else. -/
theorem overrunIsSticky : Obligations.OverrunIsSticky := by
  intro s t h
  rw [← and_assoc]
  refine ⟨?overrun, fun w rest hi hp => ?errCode⟩
  case overrun =>
    cases step_effect h with
    | idle hi => simp +contextual [hi]
    | read a rest hi => simp +contextual [hi]
    | statusWrite v rest hi => simp +contextual [hi, statusAddr]
    | droppedWrite a v rest hi ha hp =>
      have ha : a ≠ 1#12 := ha
      simp [hi, ha, hp]
    | raised w rest e hi hp => simp +contextual [hi, hp, cmdAddr]
    | completed w rest i u hi hp hd hu =>
      have hu : u.overrun = s.overrun := (commandEffect_overrun hu :)
      simp +contextual [hi, hp, hu, cmdAddr]
    | regWrite a v rest hi ha hc hp =>
      have ha : a ≠ 1#12 := ha
      simp +contextual [hi, hp, ha]
    | respondedHmac rest hi hp => simp +contextual [hi]
    | respondedGen rest hi hp => simp +contextual [hi]
    | reset rest hi => simp [hi, State.reset]
  case errCode =>
    rw [step_hostWrite hi] at h
    have hdrop := hostWrite_busy (a := cmdAddr) (s := { s with inbox := rest }) w (by decide) hp
    cases hdrop.symm.trans h
    rfl

end Sys2Proof.Machine
end

section
/-! PROOFS. Reset (R231, R232): the word every address reads as after it, and the request it
cancels. -/

namespace Sys2Proof.Machine

/-- A reset takes every register but `PARAM` to its value in the reset state. -/
theorem readReg_resetBlock (s : State) {r : Reg} (hp : r ≠ .param) :
    readReg (resetBlock s) r = readReg State.reset r := by
  cases r with
  | param => exact absurd rfl hp
  | _ => rfl

/-- Of the registers only `PARAM` and `TIME_STEP` read other than 0 in the reset state. -/
theorem readReg_reset {r : Reg} (hp : r ≠ .param) (ht : r ≠ .timeStep) :
    readReg State.reset r = 0 := by
  cases r with
  | param => exact absurd rfl hp
  | timeStep => exact absurd rfl ht
  | msg k | digest k | codeAscii k => simp [readReg, State.reset]
  | inBuf i | keyBuf i => rfl
  | _ => decide

/-- R231, address by address: `PARAM` stands at 0x005 alone and `TIME_STEP` at 0x012 alone. -/
theorem busRead_resetBlock (s : State) (a : Addr) :
    busRead (resetBlock s) a =
      if a = 0x005 then busRead s a else if a = 0x012 then 30 else 0 := by
  by_cases hparam : a = 0x005
  · subst hparam; rfl
  by_cases hstep : a = 0x012
  · subst hstep; rfl
  rw [if_neg hparam, if_neg hstep]
  have hp : regAt (resetBlock s) a ≠ .param := fun h =>
    hparam (regAt_inj (b := 0x005) h (h ▸ Reg.noConfusion))
  have ht : regAt (resetBlock s) a ≠ .timeStep := fun h =>
    hstep (regAt_inj (b := 0x012) h (h ▸ Reg.noConfusion))
  exact (readReg_resetBlock s hp).trans (readReg_reset hp ht)

/-- Settles O50: the step is `resetBlock`, which leaves no request for a response to answer. -/
theorem resetValues : Obligations.ResetValues := by
  intro s rest h
  refine ⟨_, step_reset h, rfl, rfl, fun a => ?reads, fun u hu => ?cancelled⟩
  case reads =>
    rw [busRead_resetBlock, busRead_modelFields s rest s.readData a]
  case cancelled => cases (engineRespond_refused rfl).symm.trans hu

end Sys2Proof.Machine
end
